-- ==== Sys2Proof/Word.lean ====
section
/-! DEFINITION. The word types of the part: bytes, sequence numbers, epochs, stamps, and the indexes of its tables. -/

namespace Sys2Proof

/-- A byte of the host port or of a frame's byte phase. -/
abbrev Byte := BitVec 8

/-- A sequence number, ack or limit: 6 bits, every difference modulo 64 (section 1.7). -/
abbrev Seq := BitVec 6

/-- An epoch. 0 stands for unknown in a peer entry and for none in the control section (section 3.2, R155). -/
abbrev Epoch := BitVec 8

/-- A value of the TBS time stamp counter (R142). -/
abbrev Stamp := BitVec 16

/-- An address that has an entry in the peer table, 0 to 30 (R24). -/
abbrev Station := Fin 31

/-- The index of a transmit slot, 0 to 23 (R89). -/
abbrev Handle := Fin 24

/-- An address as the line carries it, 0 to 31 (R13, R142). -/
abbrev Address := BitVec 5

end Sys2Proof
end

