-- ==== Sys2Proof/Config.lean ====
section
/-! DEFINITION. What is fixed for one part or from CONFIGURE on: the sizes of its queues and the configuration record.
The spec leaves one value open, which stands here as a free value: MISO while the port waits for CSn to rise. -/

namespace Sys2Proof

namespace Config

/-- Message records of the store (R70). -/
def storeSize : Nat := 48

/-- Records the notice queue holds (R175). -/
def noticeQueueSize : Nat := 16

/-- Upper bound of the notice drop count (R178). -/
def dropCountMax : Nat := 255

/-- Upper bound of every counter (R181). -/
def counterMax : Nat := 65535

/-- Upper bound of the health score (R126). -/
def scoreMax : Nat := 255

/-- Recessive samples that make the line idle (R3). -/
def idleSamples : Nat := 11

/-- Payload bytes a message may hold (R13, R71, R89). -/
def payloadMax : Nat := 48

/-- Parameter bytes of CONFIGURE (R170). -/
def recordBytes : Nat := 31

/-- What MISO carries while CSn, low at RSTn's release, has not risen: no rule gives it (R157, R168), so nothing is known of
it here (DESIGN CHOICE, a free value; log entry 23). -/
opaque misoAwaitingRise : Option Bool

end Config

/-- The bit rates, in the order of their codes 0 to 4 (R2, R145 index 1). -/
inductive BitRate where
  | kbit125
  | kbit250
  | kbit500
  | kbit1000
  | kbit2000
  deriving DecidableEq, Repr

/-- CLKIN reference periods in one bit time (R2). -/
def BitRate.periodsPerBit : BitRate → Nat
  | .kbit125 => 128
  | .kbit250 => 64
  | .kbit500 => 32
  | .kbit1000 => 16
  | .kbit2000 => 8

/-- One entry of the group filter table (R115). -/
structure FilterEntry where
  value : Byte
  mask : Byte
  enabled : Bool
  deriving DecidableEq, Repr

/-- The frozen configuration record (R145, R146, R170). Times are in TU. -/
structure ConfigRecord where
  bitRate : BitRate
  epoch : Epoch
  quota : Nat
  headroom : Nat
  ackDelay : Nat
  ackTimeout : Nat
  maxRetries : Nat
  helloInterval : Nat
  silenceMultiple : Nat
  holdoff : Nat
  deliveryInterrupt : Bool
  completionInterrupt : Bool
  noticeInterrupt : Bool
  filters : Vector FilterEntry 8
  deriving DecidableEq, Repr

/-- What the blocks read while no record is held: G counts as 0, every filter entry and every interrupt cause is
disabled (R73, R115, R169). No other field is read before CONFIGURE. -/
def ConfigRecord.unset : ConfigRecord where
  bitRate := .kbit125
  epoch := 0
  quota := 0
  headroom := 0
  ackDelay := 0
  ackTimeout := 0
  maxRetries := 0
  helloInterval := 0
  silenceMultiple := 0
  holdoff := 0
  deliveryInterrupt := false
  completionInterrupt := false
  noticeInterrupt := false
  filters := Vector.replicate 8 ⟨0, 0, false⟩

end Sys2Proof
end

