-- ==== Sys2Proof/Syntax.lean ====
section
/-! DEFINITION. The commands the part takes: one constructor of `Instr` per row of spec/opcode_table.json; what its pins
bring between two of them; and the host port's command names. -/

namespace Sys2Proof

/-- The twelve commands of the host port, and every other code (R160, R166). -/
inductive HostCommand where
  | configure
  | start
  | leave
  | reset
  | submit
  | cancel
  | readMessage
  | readCompletion
  | readNotice
  | readPeer
  | readStatus
  | readCounters
  | unknown
  deriving DecidableEq, Repr

/-- The order in which the reports of one completed good frame are taken: the report to HMN, the frame record at FCL,
and the line idle at TXS with the staging that may follow it (R20, R98, R131; log entries 2 and 11). An address clash has no
record: there the line idle comes before its report to HMN or after it. -/
inductive FrameOrder where
  /-- HMN, then the record, then the line idle. -/
  | recordFirst
  /-- HMN, then the line idle and the staging of its choice, then the record. -/
  | idleAfterScore
  /-- The line idle and the staging of its choice, then HMN, then the record. -/
  | idleBeforeScore
  deriving DecidableEq, Repr

/-- Whether HMN takes its report before TXS takes its own, where both belong to one outcome (R131, R134). -/
def FrameOrder.scoreFirst : FrameOrder → Bool
  | .recordFirst => true
  | .idleAfterScore => true
  | .idleBeforeScore => false

/-- What the pins bring between two commands (R1, R157): the level read on LRX in one bit time, recessive being `true`,
with the order of the reports that its sample may complete; an edge of SCLK, the rising one with the level on MOSI; or the
edges of one whole byte (log entry 26). -/
inductive Input where
  | bitTime (recessive : Bool) (order : FrameOrder)
  | sclkRise (mosi : Bool)
  | sclkFall
  | mosiByte (byte : Byte)
  deriving DecidableEq, Repr

/-- The commands. A row's operands are what the outside supplies with the event: pin levels, bytes on MOSI, the frame
on the line, the element or contention bit at which a fault or loss falls, the peer whose timer expires; and, where one
event holds two reports that may be taken in either order, which comes first (log entry 2). -/
inductive Instr where
  | pinReset
  | rstnRelease (straps : Address) (csnLow : Bool)
  | timeStampTick
  | transactionStart
  | transactionEnd
  | transactionCutShort
  | configure (params : List Byte)
  | start
  | leave
  | reset
  | submit (params : List Byte)
  | cancel (handle : Byte)
  | readMessage
  | readCompletion
  | readNotice
  | readPeer (address : Byte)
  | readStatus
  | readCounters
  | unknownCommand (code : Byte)
  | lineIdle
  | contentionStarted
  | sentOk (stagingFirst : Bool)
  | lostContention (bit : Fin 7)
  | readbackFault (element : Nat) (scoreFirst : Bool)
  | checkError
  | goodFrame (order : FrameOrder) (contention : BitVec 7) (bytes : List Byte)
  | joinTimerExpiry (p : Station)
  | silenceTimerExpiry (p : Station)
  | ackTimerExpiry (p : Station)
  | ackDelayExpiry (p : Station)
  | helloTimerExpiry
  | holdoffExpiry
  | leaveLimitExpiry
  | receptionStart
  | chipSelectRiseAfterReset
  deriving DecidableEq, Repr

end Sys2Proof
end

