-- ==== Sys2Proof/Machine/Frame.lean ====
section
/-! DEFINITION. Frames as the line carries them: the layout of the six kinds (R13, R14, R15), the frame check (R16),
the element sequence (R4), and what a receiver makes of the bytes it assembled (R17, R18). -/

namespace Sys2Proof

/-- The kinds of control frame (section 1.6, R13). -/
inductive ControlKind where
  | acceptFrame
  | openFrame
  | creditFrame
  deriving DecidableEq, Repr

/-- A frame's fields by kind (R13, R14). A HELLO's destination is 31 (R18), and a GROUP's is sent as 31 and ignored on
receipt (R15), so neither is a field here. The length is the payload's. -/
inductive FrameBody where
  | hello (epoch : Epoch) (leaving : Bool)
  | control (kind : ControlKind) (dest : Address) (srcEpoch dstEpoch : Epoch) (ack limit : Seq)
  | data (dest : Address) (srcEpoch dstEpoch : Epoch) (seq ack limit : Seq) (payload : List Byte)
  | group (tag : Byte) (payload : List Byte)
  deriving DecidableEq, Repr

namespace Machine

/-- The destination that stands for all stations (section 1.4). -/
def allStations : Address := 31

/-- Kind codes of the control frames (R13). -/
def controlCode : ControlKind → BitVec 3
  | .openFrame => 1
  | .acceptFrame => 2
  | .creditFrame => 3

/-- Kind code of a frame (R13). -/
def kindCode : FrameBody → BitVec 3
  | .hello _ _ => 0
  | .control k _ _ _ _ _ => controlCode k
  | .data _ _ _ _ _ _ _ => 4
  | .group _ _ => 5

/-- The destination field a frame is sent with (R13, R15). -/
def destinationField : FrameBody → Address
  | .hello _ _ => allStations
  | .control _ d _ _ _ _ => d
  | .data d _ _ _ _ _ _ => d
  | .group _ _ => allStations

/-- Four 6-bit values in three bytes, the first in the highest bits (R14). -/
def packFour (a b c d : BitVec 6) : List Byte :=
  let w : BitVec 24 := a ++ b ++ c ++ d
  [w.extractLsb' 16 8, w.extractLsb' 8 8, w.extractLsb' 0 8]

/-- Two 6-bit values and four spare zeros in two bytes (R14, R15). -/
def packTwo (a b : BitVec 6) : List Byte :=
  let w : BitVec 16 := a ++ b ++ (0 : BitVec 4)
  [w.extractLsb' 8 8, w.extractLsb' 0 8]

/-- The byte phase of a frame without its CRC, spare bits 0 (R12, R14, R15). -/
def frameBytes (f : FrameBody) : List Byte :=
  let first : Byte := kindCode f ++ destinationField f
  match f with
  | .hello e leaving => [first, e, if leaving then 1 else 0]
  | .control _ _ se de ack limit => first :: se :: de :: packTwo ack limit
  | .data _ se de seq ack limit payload =>
    first :: se :: de :: (packFour seq ack limit (BitVec.ofNat 6 payload.length) ++ payload)
  | .group tag payload => first :: tag :: BitVec.ofNat 8 payload.length :: payload

/-- The contention value: 32 × urgency + source address (R5). -/
def contentionValue (urgency : BitVec 2) (source : Address) : BitVec 7 := urgency ++ source

/-- The source address in a contention value (R5). -/
def contentionSource (c : BitVec 7) : Address := c.extractLsb' 0 5

/-- One bit of the CRC with generator x^16 + x^12 + x^5 + 1 (R16). -/
def crcBit (r : BitVec 16) : BitVec 16 := if r.msb then (r <<< 1) ^^^ 0x1021 else r <<< 1

/-- One byte value, most significant bit first (R16). -/
def crcByte (r : BitVec 16) (b : Byte) : BitVec 16 :=
  (List.range 8).foldl (fun r _ => crcBit r) (r ^^^ (b.setWidth 16 <<< 8))

/-- The CRC-16 of a sequence of byte values, from 0xFFFF, with no final inversion (R16). -/
def crc16 (bytes : List Byte) : BitVec 16 := bytes.foldl crcByte 0xFFFF

/-- The frame check of a contention value and the byte phase before the CRC (R16). -/
def frameCheck (contention : BitVec 7) (bytes : List Byte) : BitVec 16 := crc16 (contention.setWidth 8 :: bytes)

/-- A 16-bit number, high byte first. -/
def bytesOf16 (w : BitVec 16) : List Byte := [w.extractLsb' 8 8, w.extractLsb' 0 8]

/-- The whole byte phase as it goes out: the bytes, then the CRC, high byte first (R12, R16). -/
def bytePhase (contention : BitVec 7) (bytes : List Byte) : List Byte :=
  bytes ++ bytesOf16 (frameCheck contention bytes)

/-- The contention bits, bit 6 first (R5). A recessive element is `true` here and in every element list. -/
def contentionBits (c : BitVec 7) : List Bool := [6, 5, 4, 3, 2, 1, 0].map fun i => c.getLsbD i

/-- The contention value that seven bits spell, bit 6 first. -/
def contentionOfBits (bits : List Bool) : BitVec 7 :=
  bits.foldl (fun c b => (c <<< 1) ||| (if b then 1 else 0)) 0

/-- The data bits of a byte in line order, least significant first (R4). -/
def dataBits (b : Byte) : List Bool := (List.range 8).map fun i => b.getLsbD i

/-- The byte that eight data bits in line order spell (R4). -/
def byteOfBits (bits : List Bool) : Byte := bits.foldr (fun bit b => (b <<< 1) ||| (if bit then 1 else 0)) 0

/-- One byte on the line: dominant start element, data bits least significant first, recessive stop element (R4). -/
def byteElements (b : Byte) : List Bool := false :: dataBits b ++ [true]

/-- A frame's elements in line order: start element, contention field, byte phase, end marker (R4). -/
def frameElements (contention : BitVec 7) (bytes : List Byte) : List Bool :=
  false :: contentionBits contention ++ (bytePhase contention bytes).flatMap byteElements ++ List.replicate 11 true

/-- The elements sent in CONTENDING: the start element and the contention field (R7). -/
def contendingElements : Nat := 8

/-- Whether a readback fault can fall at an element of a frame being sent (R8): in the start element and the contention
field only where the element is dominant, after them anywhere, the end marker included. -/
def canFaultAt (elements : List Bool) (n : Nat) : Bool :=
  match elements[n]? with
  | none => false
  | some recessive => contendingElements ≤ n || !recessive

/-- Destination field of the first byte of a byte phase (R13). -/
def destinationOf (b : Byte) : Address := b.extractLsb' 0 5

/-- The fields of a control frame, its spare bits ignored (R14, R15). -/
def readControl (k : ControlKind) (first se de b4 b5 : Byte) : FrameBody :=
  let w : BitVec 16 := b4 ++ b5
  .control k (destinationOf first) se de (w.extractLsb' 10 6) (w.extractLsb' 4 6)

/-- The fields of a DATA frame; none when the length is over 48 or is not the payload's (R14, R17, R18). -/
def readData (first se de b4 b5 b6 : Byte) (payload : List Byte) : Option FrameBody :=
  let w : BitVec 24 := b4 ++ b5 ++ b6
  let n := (w.extractLsb' 0 6).toNat
  if n ≤ Config.payloadMax ∧ payload.length = n then
    some (.data (destinationOf first) se de (w.extractLsb' 18 6) (w.extractLsb' 12 6) (w.extractLsb' 6 6) payload)
  else none

/-- The fields of a GROUP frame, its destination and its two spare bits ignored (R14, R15, R18). -/
def readGroup (tag len : Byte) (payload : List Byte) : Option FrameBody :=
  let n := (len.extractLsb' 0 6).toNat
  if n ≤ Config.payloadMax ∧ payload.length = n then some (.group tag payload) else none

/-- The fields of a HELLO; none when its destination is not 31 (R14, R18). -/
def readHello (first e flags : Byte) : Option FrameBody :=
  if destinationOf first = allStations then some (.hello e (flags.getLsbD 0)) else none

/-- What a receiver reads from a byte phase without its CRC (R14); none where a check of R18 fails: a kind code 6 or 7, a
HELLO to another destination than 31, a length over 48, or a number of bytes other than the kind's, which shows as a
missing start element or as a dominant bit of the end marker. -/
def readFrame : List Byte → Option FrameBody
  | first :: rest =>
    match (first.extractLsb' 5 3).toNat, rest with
    | 0, [e, flags] => readHello first e flags
    | 1, [se, de, b4, b5] => some (readControl .openFrame first se de b4 b5)
    | 2, [se, de, b4, b5] => some (readControl .acceptFrame first se de b4 b5)
    | 3, [se, de, b4, b5] => some (readControl .creditFrame first se de b4 b5)
    | 4, se :: de :: b4 :: b5 :: b6 :: payload => readData first se de b4 b5 b6 payload
    | 5, tag :: len :: payload => readGroup tag len payload
    | _, _ => none
  | [] => none

/-- What a receiver makes of an assembled contention value and byte phase (R17, R18): the source and the fields of a good
frame, or none at a check error. -/
def receiveFrame (contention : BitVec 7) (bytes : List Byte) : Option (Address × FrameBody) :=
  let body := bytes.take (bytes.length - 2)
  if 2 ≤ bytes.length ∧ bytes.drop (bytes.length - 2) = bytesOf16 (frameCheck contention body) then
    (readFrame body).map fun f => (contentionSource contention, f)
  else none

/-! ### The receiver's checks as the bytes come in (R17, R18) -/

/-- Kind code of the first byte of a byte phase (R13). -/
def kindOf (b : Byte) : Nat := (b.extractLsb' 5 3).toNat

/-- The length field of a DATA frame once byte 6 is stored, and of a GROUP frame once byte 3 is (R14, R17). -/
def lengthField : List Byte → Option Nat
  | [] => none
  | first :: rest =>
    match kindOf first with
    | 4 => rest[4]?.map fun b => (b.extractLsb' 0 6).toNat
    | 5 => rest[1]?.map fun b => (b.extractLsb' 0 6).toNat
    | _ => none

/-- The number N of byte-phase bytes, once the receiver knows it (R13, R17). -/
def knownLength : List Byte → Option Nat
  | [] => none
  | first :: rest =>
    match kindOf first with
    | 0 => some 5
    | 1 => some 7
    | 2 => some 7
    | 3 => some 7
    | 4 => (lengthField (first :: rest)).map (8 + ·)
    | 5 => (lengthField (first :: rest)).map (5 + ·)
    | _ => none

/-- Whether the bytes stored so far are the whole byte phase, so that the end marker is due (R17). -/
def phaseComplete (bytes : List Byte) : Bool := knownLength bytes == some bytes.length

/-- The checks that fall when a byte is stored: kind and HELLO destination at byte 1, length at its byte, CRC at the last
byte (R18). -/
def storedBytesPass (contention : BitVec 7) (bytes : List Byte) : Bool :=
  match bytes with
  | [] => true
  | first :: _ =>
    decide (kindOf first ≤ 5) && (kindOf first != 0 || destinationOf first == allStations)
      && (lengthField bytes).all (fun n => decide (n ≤ Config.payloadMax))
      && (!phaseComplete bytes || (receiveFrame contention bytes).isSome)

end Machine

end Sys2Proof
end

