-- ==== Sys2Proof/Machine/Operands.lean ====
section
/-! DEFINITION. The parameter bytes of the host commands: the command codes (R160), how many parameter bytes a command
takes (R160, R173), the configuration record with its checks (R145, R170), and the SUBMIT parameters (R93, R173). -/

namespace Sys2Proof

/-- Where a message goes: DATA to a peer, or GROUP with a tag (R89). -/
inductive Target where
  | data (p : Station)
  | group (tag : Byte)
  deriving DecidableEq, Repr

/-- What SUBMIT fills a slot with (R89, R94). The length is the payload's. -/
structure Message where
  target : Target
  urgency : BitVec 2
  cookie : BitVec 16
  payload : List Byte
  deriving DecidableEq, Repr

namespace Machine

/-- The command codes (R160); no code for an unknown command. -/
def commandCode : HostCommand → Option Byte
  | .configure => some 0x10
  | .start => some 0x11
  | .leave => some 0x12
  | .reset => some 0x13
  | .submit => some 0x20
  | .cancel => some 0x21
  | .readMessage => some 0x30
  | .readCompletion => some 0x31
  | .readNotice => some 0x32
  | .readPeer => some 0x33
  | .readStatus => some 0x34
  | .readCounters => some 0x35
  | .unknown => none

/-- The twelve commands of the host port (R160). -/
def knownCommands : List HostCommand :=
  [.configure, .start, .leave, .reset, .submit, .cancel, .readMessage, .readCompletion, .readNotice, .readPeer,
   .readStatus, .readCounters]

/-- Whether a code names one of the twelve commands (R160, R166). -/
def isCommandCode (code : Byte) : Bool := knownCommands.any fun c => commandCode c == some code

/-- The command a code byte names; every other code is unknown (R160, R166). -/
def commandOf (code : Byte) : HostCommand := (knownCommands.find? fun c => commandCode c == some code).getD .unknown

/-- Byte `i` of a parameter list, the first being byte 0 here and byte 1 in the tables; 0 past the end. -/
def byteAt (bytes : List Byte) (i : Nat) : Byte := bytes.getD i 0

/-- The 16-bit number whose high byte is byte `i` (section 10.6). -/
def wordAt (bytes : List Byte) (i : Nat) : BitVec 16 := byteAt bytes i ++ byteAt bytes (i + 1)

/-- Payload bytes a SUBMIT takes for a length byte: the length up to 48, none above (R93, R173). -/
def submitPayloadBytes (length : Byte) : Nat := if length.toNat ≤ Config.payloadMax then length.toNat else 0

/-- How many parameter bytes a command takes, given those that came so far (R160). -/
def paramsNeeded (c : HostCommand) (params : List Byte) : Nat :=
  match c with
  | .configure => Config.recordBytes
  | .submit => if params.length < 6 then 6 else 6 + submitPayloadBytes (byteAt params 5)
  | .cancel => 1
  | .readPeer => 1
  | _ => 0

/-! ### The configuration record -/

/-- The fields of the configuration record as the whole numbers their bytes encode, before any check (R145, R170). -/
structure RawRecord where
  bitRate : Nat
  epoch : Byte
  quota : Nat
  headroom : Nat
  ackDelay : Nat
  ackTimeout : Nat
  maxRetries : Nat
  helloInterval : Nat
  silenceMultiple : Nat
  holdoff : Nat
  enables : Byte
  values : List Byte
  masks : List Byte
  filterEnables : Byte
  deriving DecidableEq, Repr

/-- The layout of the 31 parameter bytes (R170). -/
def readRecord (b : List Byte) : RawRecord where
  bitRate := (byteAt b 0).toNat
  epoch := byteAt b 1
  quota := (byteAt b 2).toNat
  headroom := (byteAt b 3).toNat
  ackDelay := (byteAt b 4).toNat
  ackTimeout := (wordAt b 5).toNat
  maxRetries := (byteAt b 7).toNat
  helloInterval := (wordAt b 8).toNat
  silenceMultiple := (byteAt b 10).toNat
  holdoff := (wordAt b 11).toNat
  enables := byteAt b 13
  values := (List.range 8).map fun i => byteAt b (14 + i)
  masks := (List.range 8).map fun i => byteAt b (22 + i)
  filterEnables := byteAt b 30

/-- The checks of CONFIGURE in index order, index 0 the strapped address (R145). Indexes 11 to 14 take every value. -/
def recordChecks (own : Address) (r : RawRecord) : List Bool :=
  [decide (own.toNat ≤ 30),
   decide (r.bitRate ≤ 4),
   decide (r.epoch ≠ 0),
   decide (1 ≤ r.quota ∧ r.quota ≤ 15),
   decide (r.headroom ≤ 16),
   decide (r.ackDelay ≤ 31),
   decide (8 ≤ r.ackTimeout ∧ r.ackTimeout ≤ 4095 ∧ 2 * r.ackDelay + 8 ≤ r.ackTimeout),
   decide (1 ≤ r.maxRetries ∧ r.maxRetries ≤ 15),
   decide (100 ≤ r.helloInterval ∧ r.helloInterval ≤ 60000),
   decide (3 ≤ r.silenceMultiple ∧ r.silenceMultiple ≤ 15),
   decide (10 ≤ r.holdoff ∧ r.holdoff ≤ 60000)]

/-- The index of the first check that fails (R144, R145). -/
def firstFailingCheck (own : Address) (r : RawRecord) : Option Nat := (recordChecks own r).findIdx? (· == false)

/-- The bit rate of a code; only 0 to 4 pass the checks (R145 index 1). -/
def bitRateOfCode : Nat → BitRate
  | 0 => .kbit125
  | 1 => .kbit250
  | 2 => .kbit500
  | 3 => .kbit1000
  | _ => .kbit2000

/-- Filter entry `i` of a record: value, mask and bit `i` of the enable byte (R115, R170). -/
def filterEntryOf (r : RawRecord) (i : Nat) : FilterEntry :=
  ⟨r.values.getD i 0, r.masks.getD i 0, r.filterEnables.getLsbD i⟩

/-- The record as each block takes its part of it (R146). -/
def configOf (r : RawRecord) : ConfigRecord where
  bitRate := bitRateOfCode r.bitRate
  epoch := r.epoch
  quota := r.quota
  headroom := r.headroom
  ackDelay := r.ackDelay
  ackTimeout := r.ackTimeout
  maxRetries := r.maxRetries
  helloInterval := r.helloInterval
  silenceMultiple := r.silenceMultiple
  holdoff := r.holdoff
  deliveryInterrupt := r.enables.getLsbD 0
  completionInterrupt := r.enables.getLsbD 1
  noticeInterrupt := r.enables.getLsbD 2
  filters := #v[filterEntryOf r 0, filterEntryOf r 1, filterEntryOf r 2, filterEntryOf r 3, filterEntryOf r 4,
    filterEntryOf r 5, filterEntryOf r 6, filterEntryOf r 7]

/-! ### SUBMIT -/

/-- The SUBMIT parameters as their bytes encode them, before any check (R173). -/
structure SubmitParams where
  group : Bool
  target : Byte
  urgency : Byte
  cookie : BitVec 16
  length : Byte
  payload : List Byte
  deriving DecidableEq, Repr

/-- The layout of the SUBMIT parameters (R173). -/
def readSubmit (b : List Byte) : SubmitParams where
  group := (byteAt b 0).getLsbD 0
  target := byteAt b 1
  urgency := byteAt b 2
  cookie := wordAt b 3
  length := byteAt b 5
  payload := (b.drop 6).take (submitPayloadBytes (byteAt b 5))

/-- The parameter bytes that spell SUBMIT parameters: the inverse layout (R173). -/
def submitBytes (q : SubmitParams) : List Byte :=
  (if q.group then 1 else 0) :: q.target :: q.urgency :: (bytesOf16 q.cookie ++ q.length :: q.payload)

/-- The station a byte names, if it is 0 to 30. -/
def stationOf (n : Nat) : Option Station := if h : n < 31 then some ⟨n, h⟩ else none

/-- The handle a byte names, if it is 0 to 23 (R89, R95). -/
def handleOf (n : Nat) : Option Handle := if h : n < 24 then some ⟨n, h⟩ else none

end Machine

end Sys2Proof
end

