-- ==== Sys2Proof/WellFormed.lean ====
section
/-! DEFINITION. Which commands have operands the outside can supply: the parameter bytes a command takes, a code that
names no command, the bytes of a good frame, an element within the longest frame. -/

namespace Sys2Proof

/-- The longest frame, a DATA with 48 payload bytes, has 579 elements (R13). -/
def maxFrameElements : Nat := 579

/-- The parameter list of a host command is exactly what the command takes (R160). -/
def paramsComplete (c : HostCommand) (params : List Byte) : Bool := params.length == Machine.paramsNeeded c params

/-- A command whose operands the outside can supply. -/
def Instr.wellFormed : Instr → Bool
  | .configure params => paramsComplete .configure params
  | .submit params => paramsComplete .submit params
  | .unknownCommand code => !Machine.isCommandCode code
  | .readbackFault element _ => decide (element < maxFrameElements)
  | .goodFrame _ contention bytes => (Machine.receiveFrame contention bytes).isSome
  | .pinReset => true
  | .rstnRelease _ _ => true
  | .timeStampTick => true
  | .transactionStart => true
  | .transactionEnd => true
  | .transactionCutShort => true
  | .start => true
  | .leave => true
  | .reset => true
  | .cancel _ => true
  | .readMessage => true
  | .readCompletion => true
  | .readNotice => true
  | .readPeer _ => true
  | .readStatus => true
  | .readCounters => true
  | .lineIdle => true
  | .contentionStarted => true
  | .sentOk _ => true
  | .lostContention _ => true
  | .checkError => true
  | .joinTimerExpiry _ => true
  | .silenceTimerExpiry _ => true
  | .ackTimerExpiry _ => true
  | .ackDelayExpiry _ => true
  | .helloTimerExpiry => true
  | .holdoffExpiry => true
  | .leaveLimitExpiry => true
  | .receptionStart => true
  | .chipSelectRiseAfterReset => true

end Sys2Proof
end

