-- ==== Sys2Proof/Machine/State.lean ====
section
/-! DEFINITION. The state of the part, block by block, as plain data, and its value right after a pin reset (R142). -/

namespace Sys2Proof.Machine

/-- No event stops the part with a fault: every event has an effect, a status byte, or no effect (INVENTORY.md, Faults).
The type has no constructor, so that no meaning can raise one. -/
inductive Fault where
  deriving DecidableEq, Repr

/-- Why a command has no outcome. -/
inductive Refusal where
  /-- Raised by an arm of `exec` whose command has no meaning yet (safe: nothing is claimed of it). No arm raises it. -/
  | notModelled (mnemonic : String)
  deriving DecidableEq, Repr

/-! ### Control section -/

/-- The operating states (R140). -/
inductive OpState where
  | unconfigured
  | ready
  | running
  | detached
  | leaving
  deriving DecidableEq, Repr

/-- What the control section holds (R140, R142, R152). Timers here and below are remaining times in TU; 0 is stopped
(section 1.7). -/
structure Control where
  ownAddr : Address
  opState : OpState
  config : Option ConfigRecord
  epoch : Epoch
  leavingHelloDue : Bool
  leaveLimit : Nat
  deriving DecidableEq, Repr

/-! ### Line Interface Unit -/

/-- The line states (R10). -/
inductive LineState where
  | idle
  | contending
  | sending
  | receiving
  | recovering
  deriving DecidableEq, Repr

/-- A staged frame copy: contention value and byte phase without CRC; the number of bytes is the list's length (R12). -/
structure StagedFrame where
  contention : BitVec 7
  bytes : List Byte
  deriving DecidableEq, Repr

/-- The receive assembly buffer: contention bits seen, bit 6 first, bytes stored, and the elements sampled since the last
stored byte, which belong to the byte or to the end marker that follows it (R17). -/
structure Assembly where
  bits : List Bool
  bytes : List Byte
  tail : List Bool
  deriving DecidableEq, Repr

/-- An empty assembly buffer. -/
def Assembly.empty : Assembly := ⟨[], [], []⟩

/-- What the LIU holds (R1, R3, R7, R10, R12, R17). `matched` counts the elements of the staged frame that have been driven
and read back as sent; `ltxLow` is the level of LTX, low for the dominant element being driven. -/
structure Liu where
  line : LineState
  idleCount : Nat
  staging : Option StagedFrame
  matched : Nat
  assembly : Assembly
  ltxLow : Bool
  deriving DecidableEq, Repr

/-! ### Peer Engine -/

/-- The association states (R24, R29). -/
inductive AssocState where
  | absent
  | syncing
  | linked
  | lost
  | self
  deriving DecidableEq, Repr

/-- An entry of the peer table (R25). -/
structure PeerEntry where
  state : AssocState
  peerEpoch : Epoch
  nextTxSeq : Seq
  oldestUnacked : Seq
  heldLimit : Seq
  expected : Seq
  grantLimit : Seq
  openPending : Bool
  acceptPending : Bool
  ackPending : Bool
  grantPending : Bool
  creditDue : Bool
  retryCount : Nat
  joinTimer : Nat
  silenceTimer : Nat
  ackTimer : Nat
  ackDelayTimer : Nat
  sessionCount : BitVec 8
  deriving DecidableEq, Repr

/-- An ABSENT entry after a reset: every field 0, every flag clear, every timer stopped (R26). -/
def PeerEntry.absentEntry : PeerEntry where
  state := .absent
  peerEpoch := 0
  nextTxSeq := 0
  oldestUnacked := 0
  heldLimit := 0
  expected := 0
  grantLimit := 0
  openPending := false
  acceptPending := false
  ackPending := false
  grantPending := false
  creditDue := false
  retryCount := 0
  joinTimer := 0
  silenceTimer := 0
  ackTimer := 0
  ackDelayTimer := 0
  sessionCount := 0

/-- The entry at the own address (R24). -/
def PeerEntry.selfEntry : PeerEntry := { PeerEntry.absentEntry with state := .self }

/-- What PEN holds (R24, R35). -/
structure Pen where
  peers : Vector PeerEntry 31
  helloTimer : Nat
  helloDue : Bool
  deriving DecidableEq, Repr

/-! ### Message Store -/

/-- What belongs to one kind of delivery record (R71). -/
inductive DeliveryKind where
  | data (seq : Seq)
  | group (filterIndex : Fin 8) (tag : Byte)
  deriving DecidableEq, Repr

/-- A delivery record (R71); its length is the payload's. -/
structure DeliveryRecord where
  source : Station
  kind : DeliveryKind
  payload : List Byte
  arrival : Stamp
  deriving DecidableEq, Repr

/-- What MST holds (R70, R72, R78). -/
structure Mst where
  delivery : List DeliveryRecord
  stored : Nat
  storedGroup : Nat
  rotation : Station
  deriving DecidableEq, Repr

/-! ### Transmit Scheduler -/

/-- The outcomes of a completed slot (R89). -/
inductive SlotOutcome where
  | delivered
  | sent
  | cancelled
  | inDoubt
  | peerGone
  deriving DecidableEq, Repr

/-- A transmit slot: the fields present in each state (R89, R90). A SENT slot has its seq and its resend mark, a COMPLETE
slot its outcome and the seq it went out with, if it did. -/
inductive Slot where
  | free
  | queued (m : Message)
  | sent (m : Message) (seq : Seq) (marked : Bool)
  | complete (m : Message) (seq : Option Seq) (outcome : SlotOutcome)
  deriving DecidableEq, Repr

/-- A candidate that TXS may present (R99, R100, R101). -/
inductive Candidate where
  | hello
  | leavingHello
  | control (kind : ControlKind) (p : Station)
  | firstSend (h : Handle) (p : Station)
  | resend (h : Handle) (p : Station)
  | group (h : Handle)
  deriving DecidableEq, Repr

/-- What a frame to a peer carried, and the peer's sessionCount at its staging (R58, R105). -/
structure Carried where
  sessionCount : BitVec 8
  ack : Seq
  limit : Seq
  deriving DecidableEq, Repr

/-- The staging record (R105). The handle is none once the named slot has been released (R97). -/
inductive StagingRecord where
  | hello (epoch : Epoch)
  | leavingHello (epoch : Epoch)
  | control (kind : ControlKind) (p : Station) (carried : Carried)
  | firstSend (h : Option Handle) (p : Station) (seq : Seq) (carried : Carried)
  | resend (h : Option Handle) (p : Station) (seq : Seq) (carried : Carried)
  | group (h : Option Handle)
  deriving DecidableEq, Repr

/-- What TXS holds (R89, R91, R92, R98, R104, R105). -/
structure Txs where
  slots : Vector Slot 24
  order : List Handle
  completions : List Handle
  staged : Option StagingRecord
  presented : Option Candidate
  controlPtr : Station
  deriving DecidableEq, Repr

/-! ### Health Monitor -/

/-- The health levels (R129). -/
inductive Level where
  | sound
  | guarded
  deriving DecidableEq, Repr

/-- What HMN holds (R126, R129, R136). -/
structure Hmn where
  score : Nat
  level : Level
  holdoff : Nat
  deriving DecidableEq, Repr

/-! ### Host Port -/

/-- The level field of a HEALTH_CHANGED notice (R139). -/
inductive Condition where
  | sound
  | guarded
  | detached
  deriving DecidableEq, Repr

/-- The causes of PEER_LOST (R176). -/
inductive LossCause where
  | silence
  | retries
  | join
  deriving DecidableEq, Repr

/-- The notice kinds with the fields that belong to each (R176). -/
inductive NoticeKind where
  | peerLinked (p : Station)
  | peerRestarted (p : Station)
  | peerLost (p : Station) (cause : LossCause)
  | peerLeft (p : Station)
  | healthChanged (condition : Condition)
  | addressClash
  | leaveDone (timedOut : Bool)
  deriving DecidableEq, Repr

/-- A notice record (R176). -/
structure Notice where
  kind : NoticeKind
  stamp : Stamp
  deriving DecidableEq, Repr

/-- The names of the counters, in the order of READ_COUNTERS (R174, R181). -/
inductive CounterName where
  | framesSent
  | framesReceived
  | checkErrors
  | contentionLosses
  | readbackFaults
  | retransmissions
  | duplicates
  | outOfOrder
  | creditViolations
  | staleFrames
  | groupFiltered
  | groupNoRoom
  deriving DecidableEq, Repr

/-- The counter bank (R181). -/
structure Counters where
  framesSent : Nat
  framesReceived : Nat
  checkErrors : Nat
  contentionLosses : Nat
  readbackFaults : Nat
  retransmissions : Nat
  duplicates : Nat
  outOfOrder : Nat
  creditViolations : Nat
  staleFrames : Nat
  groupFiltered : Nat
  groupNoRoom : Nat
  deriving DecidableEq, Repr

/-- The counter bank after a pin reset (R181). -/
def Counters.zero : Counters := ⟨0, 0, 0, 0, 0, 0, 0, 0, 0, 0, 0, 0⟩

/-- The transaction states (R158), and the wait for CSn to rise when it was low at RSTn's release (R168). -/
inductive PortPhase where
  | waiting
  | command
  | parameters
  | answer
  | overrun
  | awaitingRise
  deriving DecidableEq, Repr

/-- The transaction state with what it holds (R157, R158, R159, R162, R167, R183): bytes taken or given in the current part,
summary byte, command, parameter bytes taken, answer (status byte and results), READ_COUNTERS snapshot, the bits of the byte
that is not complete, and the last-transaction-aborted flag. `held` is the level that MISO keeps while SCLK is high, and none
while it is low. -/
structure Port where
  phase : PortPhase
  count : Nat
  summary : Byte
  command : Option HostCommand
  params : List Byte
  answer : List Byte
  snapshot : Option Counters
  bits : List Bool
  held : Option Bool
  aborted : Bool
  deriving DecidableEq, Repr

/-- The port between transactions, in a given phase and with a given aborted flag. -/
def Port.between (phase : PortPhase) (aborted : Bool) : Port where
  phase := phase
  count := 0
  summary := 0
  command := none
  params := []
  answer := []
  snapshot := none
  bits := []
  held := none
  aborted := aborted

/-- What HPT holds (R158, R169, R175, R178, R181). `irqnLow` is the level of IRQn. -/
structure Hpt where
  port : Port
  notices : List Notice
  drops : Nat
  counters : Counters
  irqnLow : Bool
  deriving DecidableEq, Repr

/-- The state of the part, the queue of commands that wait, and what the pins bring once none waits (log entry 4). -/
structure State where
  inReset : Bool
  control : Control
  liu : Liu
  pen : Pen
  mst : Mst
  txs : Txs
  hmn : Hmn
  hpt : Hpt
  stamp : Stamp
  pending : List Instr
  inputs : List Input
  deriving DecidableEq, Repr

/-! ### Reset values (R142) -/

/-- A disabled LIU (R23): LTX high, IDLE, idle count 0, both buffers empty. -/
def Liu.disabled : Liu := ⟨.idle, 0, none, 0, .empty, false⟩

/-- TXS after a reset (R113). -/
def Txs.cleared : Txs := ⟨Vector.replicate 24 .free, [], [], none, none, 0⟩

/-- MST after a reset (R87). -/
def Mst.cleared : Mst := ⟨[], 0, 0, 0⟩

/-- HMN after a reset (R126, R129, R136). -/
def Hmn.cleared : Hmn := ⟨0, .sound, 0⟩

/-- The peer table with every entry ABSENT but the one at the own address; with the straps at 31 none is SELF (R24). -/
def initialPeers (own : Address) : Vector PeerEntry 31 :=
  if h : own.toNat < 31 then (Vector.replicate 31 PeerEntry.absentEntry).set own.toNat PeerEntry.selfEntry
  else Vector.replicate 31 PeerEntry.absentEntry

/-- The state R142 gives, for a sampled own address and a transaction state. -/
def State.initial (own : Address) (phase : PortPhase) : State where
  inReset := false
  control := ⟨own, .unconfigured, none, 0, false, 0⟩
  liu := .disabled
  pen := ⟨initialPeers own, 0, false⟩
  mst := .cleared
  txs := .cleared
  hmn := .cleared
  hpt := ⟨.between phase false, [], 0, .zero, false⟩
  stamp := 0
  pending := []
  inputs := []

/-- The part while RSTn is held low (R141): the outputs at their reset levels and everything else discarded. The straps
are not sampled yet: the own address stands at 0 (DESIGN CHOICE, log entry 10). -/
def State.held : State := { State.initial 0 .waiting with inReset := true }

/-- The part right after RSTn's release with CSn high (R142). The straps are the board's: address 0 here (DESIGN CHOICE,
log entry 1). -/
def State.reset : State := State.initial 0 .waiting

end Sys2Proof.Machine
end

