-- ==== Sys2Proof/Machine/Ops.lean ====
section
/-! DEFINITION. The named operations on the state that every family of events shares: block updates, timers, notices,
counters, slots and their completion, peer entries, the epoch. -/

namespace Sys2Proof.Machine

/-! ### Block updates -/

def State.onControl (f : Control → Control) (s : State) : State := { s with control := f s.control }
def State.onLiu (f : Liu → Liu) (s : State) : State := { s with liu := f s.liu }
def State.onPen (f : Pen → Pen) (s : State) : State := { s with pen := f s.pen }
def State.onMst (f : Mst → Mst) (s : State) : State := { s with mst := f s.mst }
def State.onTxs (f : Txs → Txs) (s : State) : State := { s with txs := f s.txs }
def State.onHmn (f : Hmn → Hmn) (s : State) : State := { s with hmn := f s.hmn }
def State.onHpt (f : Hpt → Hpt) (s : State) : State := { s with hpt := f s.hpt }

/-- The configuration record as the blocks read it; `ConfigRecord.unset` while there is none (R73, R115, R169). -/
def State.cfg (s : State) : ConfigRecord := s.control.config.getD .unset

/-- The addresses that have an entry, ascending. -/
def stations : List Station := List.finRange 31

/-- The handles, ascending. -/
def handles : List Handle := List.finRange 24

/-- The search order of a rotation: from just after the pointer round to the pointer itself (R78, R103). -/
def rotationFrom (ptr : Station) : List Station := stations.map fun k => ptr + 1 + k

/-- The next epoch: 255 is followed by 1 (R27). -/
def nextEpoch (e : Epoch) : Epoch := if e = 255 then 1 else e + 1

/-! ### Timers -/

/-- One TU of a running timer. In its last TU a timer waits for its expiry to be taken (log entry 5); 0 is stopped. -/
def tickTimer : Nat → Nat
  | 0 => 0
  | 1 => 1
  | n + 2 => n + 1

/-- Whether a timer may expire: it runs and is in its last TU (log entry 5). -/
def ranOut (timer : Nat) : Bool := timer == 1

/-- While the level is GUARDED the join and ack timers are held (R46, R68). -/
def State.timersHeld (s : State) : Bool := s.hmn.level == .guarded

/-- The silence limit in TU (R43). -/
def silenceLimit (c : ConfigRecord) : Nat := c.silenceMultiple * c.helloInterval

/-! ### Notices and counters -/

/-- HPT takes a notice: it joins the tail, or is dropped and counted when 16 records stand in the queue (R177, R178). -/
def Hpt.takeNotice (n : Notice) (t : Hpt) : Hpt :=
  if t.notices.length < Config.noticeQueueSize then { t with notices := t.notices ++ [n] }
  else { t with drops := min Config.dropCountMax (t.drops + 1) }

/-- Raise a notice, stamped with the time of the event (R176, R177). -/
def State.raise (k : NoticeKind) (s : State) : State := s.onHpt (Hpt.takeNotice ⟨k, s.stamp⟩)

/-- One count, saturating (R181). -/
def countUp (n : Nat) : Nat := min Config.counterMax (n + 1)

/-- Advance one counter (R181). -/
def Counters.bump (c : CounterName) (b : Counters) : Counters :=
  match c with
  | .framesSent => { b with framesSent := countUp b.framesSent }
  | .framesReceived => { b with framesReceived := countUp b.framesReceived }
  | .checkErrors => { b with checkErrors := countUp b.checkErrors }
  | .contentionLosses => { b with contentionLosses := countUp b.contentionLosses }
  | .readbackFaults => { b with readbackFaults := countUp b.readbackFaults }
  | .retransmissions => { b with retransmissions := countUp b.retransmissions }
  | .duplicates => { b with duplicates := countUp b.duplicates }
  | .outOfOrder => { b with outOfOrder := countUp b.outOfOrder }
  | .creditViolations => { b with creditViolations := countUp b.creditViolations }
  | .staleFrames => { b with staleFrames := countUp b.staleFrames }
  | .groupFiltered => { b with groupFiltered := countUp b.groupFiltered }
  | .groupNoRoom => { b with groupNoRoom := countUp b.groupNoRoom }

/-- The bank in the order of READ_COUNTERS (R174). -/
def Counters.toList (b : Counters) : List Nat :=
  [b.framesSent, b.framesReceived, b.checkErrors, b.contentionLosses, b.readbackFaults, b.retransmissions, b.duplicates,
   b.outOfOrder, b.creditViolations, b.staleFrames, b.groupFiltered, b.groupNoRoom]

/-- Each counter reduced by its snapshot value (R184). -/
def Counters.reduceBy (b snap : Counters) : Counters where
  framesSent := b.framesSent - snap.framesSent
  framesReceived := b.framesReceived - snap.framesReceived
  checkErrors := b.checkErrors - snap.checkErrors
  contentionLosses := b.contentionLosses - snap.contentionLosses
  readbackFaults := b.readbackFaults - snap.readbackFaults
  retransmissions := b.retransmissions - snap.retransmissions
  duplicates := b.duplicates - snap.duplicates
  outOfOrder := b.outOfOrder - snap.outOfOrder
  creditViolations := b.creditViolations - snap.creditViolations
  staleFrames := b.staleFrames - snap.staleFrames
  groupFiltered := b.groupFiltered - snap.groupFiltered
  groupNoRoom := b.groupNoRoom - snap.groupNoRoom

/-- Count one event (R181). -/
def State.count (c : CounterName) (s : State) : State :=
  s.onHpt fun t => { t with counters := t.counters.bump c }

/-! ### Transmit slots -/

/-- The slot of a handle. -/
def Txs.slot (t : Txs) (h : Handle) : Slot := t.slots[h]

/-- Replace the slot of a handle. -/
def Txs.setSlot (h : Handle) (x : Slot) (t : Txs) : Txs := { t with slots := t.slots.set h x }

/-- A slot is QUEUED or SENT (R91). -/
def Slot.isOpen : Slot → Bool
  | .queued _ => true
  | .sent _ _ _ => true
  | _ => false

/-- A slot is COMPLETE. -/
def Slot.isComplete : Slot → Bool
  | .complete _ _ _ => true
  | _ => false

/-- A slot is FREE. -/
def Slot.isFree : Slot → Bool
  | .free => true
  | _ => false

/-- A slot is QUEUED. -/
def Slot.isQueued : Slot → Bool
  | .queued _ => true
  | _ => false

/-- A slot is a QUEUED DATA slot for a peer. -/
def Slot.isQueuedTo (p : Station) : Slot → Bool
  | .queued m => m.target == .data p
  | _ => false

/-- A slot is a SENT DATA slot for a peer. -/
def Slot.isSentTo (p : Station) : Slot → Bool
  | .sent m _ _ => m.target == .data p
  | _ => false

/-- A slot is a SENT DATA slot for a peer and bears a seq. -/
def Slot.isSentAs (p : Station) (q : Seq) : Slot → Bool
  | .sent m q' _ => m.target == .data p && q' == q
  | _ => false

/-- A slot is a resend-marked SENT DATA slot for a peer (R64). -/
def Slot.isMarkedFor (p : Station) : Slot → Bool
  | .sent m _ marked => m.target == .data p && marked
  | _ => false

/-- A slot with the outcome of its completion; only a QUEUED or SENT slot completes (R90). -/
def Slot.completed (o : SlotOutcome) : Slot → Slot
  | .queued m => .complete m none o
  | .sent m q _ => .complete m (some q) o
  | x => x

/-- A slot completes: outcome set, COMPLETE, off the submission order list, at the tail of the completion queue (R92). A
slot that is neither QUEUED nor SENT is left as it stands. -/
def Txs.complete (o : SlotOutcome) (h : Handle) (t : Txs) : Txs :=
  if (t.slot h).isOpen then
    { t.setSlot h ((t.slot h).completed o) with order := t.order.erase h, completions := t.completions ++ [h] }
  else t

/-- Slots complete one after another with one outcome, in the order given (R92). -/
def Txs.completeAll (o : SlotOutcome) (hs : List Handle) (t : Txs) : Txs := hs.foldl (fun t h => t.complete o h) t

/-- The SENT slots of a peer that bear the `n` sequence numbers from `start` on, in sequence order (R30, R51). -/
def Txs.sentInSequence (p : Station) (start : Seq) (n : Nat) (t : Txs) : List Handle :=
  (List.range n).flatMap fun k => t.order.filter fun h => (t.slot h).isSentAs p (start + BitVec.ofNat 6 k)

/-- The QUEUED DATA slots of a peer, in submission order (R31). -/
def Txs.queuedFor (p : Station) (t : Txs) : List Handle := t.order.filter fun h => (t.slot h).isQueuedTo p

/-- The handle the staging record names, if any (R105). -/
def StagingRecord.handle : StagingRecord → Option Handle
  | .firstSend h _ _ _ => h
  | .resend h _ _ _ => h
  | .group h => h
  | _ => none

/-- The handle named by the staging record, if a frame is staged and it names one. -/
def Txs.stagedHandle (t : Txs) : Option Handle := t.staged.bind StagingRecord.handle

/-- The staging record after the slot it may name has been released (R97). -/
def StagingRecord.forget (h : Handle) : StagingRecord → StagingRecord
  | .firstSend h' p q c => .firstSend (if h' = some h then none else h') p q c
  | .resend h' p q c => .resend (if h' = some h then none else h') p q c
  | .group h' => .group (if h' = some h then none else h')
  | r => r

/-- The staged QUEUED DATA slot of a peer, if there is one (R30, R31). -/
def Txs.stagedQueuedTo (p : Station) (t : Txs) : List Handle :=
  match t.stagedHandle with
  | some h => if (t.slot h).isQueuedTo p then [h] else []
  | none => []

/-- Set or clear the resend mark of a SENT slot (R64). -/
def Slot.withMark (marked : Bool) : Slot → Slot
  | .sent m q _ => .sent m q marked
  | x => x

/-- Mark every SENT slot of a peer for resend (R63, R64). -/
def Txs.markSent (p : Station) (t : Txs) : Txs :=
  (t.order.filter fun h => (t.slot h).isSentTo p).foldl (fun t h => t.setSlot h ((t.slot h).withMark true)) t

/-- Whether a peer has a resend-marked slot (R54, R64). -/
def Txs.anyMarked (p : Station) (t : Txs) : Bool := t.order.any fun h => (t.slot h).isMarkedFor p

/-- Whether a peer has a SENT slot (R51). -/
def Txs.anySent (p : Station) (t : Txs) : Bool := t.order.any fun h => (t.slot h).isSentTo p

/-- The head slot of the completion queue becomes FREE, and a staging record that names it names none (R97). -/
def Txs.releaseHead (t : Txs) : Txs :=
  match t.completions with
  | [] => t
  | h :: rest => { t.setSlot h .free with completions := rest, staged := t.staged.map (StagingRecord.forget h) }

/-- The lowest-numbered FREE slot (R94). -/
def Txs.lowestFree (t : Txs) : Option Handle := handles.find? fun h => (t.slot h).isFree

/-- A message is placed QUEUED in a slot at the tail of the submission order list (R94). -/
def Txs.place (h : Handle) (m : Message) (t : Txs) : Txs := { t.setSlot h (.queued m) with order := t.order ++ [h] }

/-- The number of FREE slots (R114, R172). -/
def Txs.freeCount (t : Txs) : Nat := (handles.filter fun h => (t.slot h).isFree).length

/-! ### Peer entries -/

/-- The entry of a peer. -/
def State.peer (s : State) (p : Station) : PeerEntry := s.pen.peers[p]

/-- Change the entry of a peer. -/
def State.onPeer (p : Station) (f : PeerEntry → PeerEntry) (s : State) : State :=
  s.onPen fun n => { n with peers := n.peers.set p (f n.peers[p]) }

/-- The reservation R_p (R25, R48). -/
def PeerEntry.reservation (e : PeerEntry) : Nat := (e.grantLimit - e.expected).toNat

/-- The held credit (R48). -/
def PeerEntry.heldCredit (e : PeerEntry) : Nat := (e.heldLimit - e.nextTxSeq).toNat

/-- The length of the outstanding span (R48). -/
def PeerEntry.outstanding (e : PeerEntry) : Nat := (e.nextTxSeq - e.oldestUnacked).toNat

/-- The entry is SYNCING or LINKED. -/
def PeerEntry.isLive (e : PeerEntry) : Bool := e.state == .syncing || e.state == .linked

/-- A pending flag has gone from clear to set: the ack-delay timer starts if it is stopped; with ack delay 0 creditDue is
set at once (R59). -/
def PeerEntry.startAckDelay (ackDelay : Nat) (e : PeerEntry) : PeerEntry :=
  if e.ackDelayTimer ≠ 0 then e
  else if ackDelay = 0 then { e with creditDue := true }
  else { e with ackDelayTimer := ackDelay }

/-- Set ackPending (R59). -/
def PeerEntry.setAckPending (ackDelay : Nat) (e : PeerEntry) : PeerEntry :=
  if e.ackPending then e else { e with ackPending := true }.startAckDelay ackDelay

/-- Set grantPending (R59). -/
def PeerEntry.setGrantPending (ackDelay : Nat) (e : PeerEntry) : PeerEntry :=
  if e.grantPending then e else { e with grantPending := true }.startAckDelay ackDelay

/-- The entry after a session restart: steps 1 and 3 to 5 (R30). -/
def PeerEntry.restarted (ackDelay : Nat) (e : PeerEntry) : PeerEntry :=
  let r := e.grantLimit - e.expected
  let e' : PeerEntry :=
    { e with
      sessionCount := e.sessionCount + 1
      grantLimit := r
      nextTxSeq := 0
      oldestUnacked := 0
      heldLimit := 0
      expected := 0
      retryCount := 0
      ackTimer := 0
      ackDelayTimer := 0
      ackPending := false
      grantPending := false
      creditDue := false }
  if r = 0 then e' else e'.setGrantPending ackDelay

/-- The entry after a session end: steps 1, 3 and 4 (R31). -/
def PeerEntry.ended (e : PeerEntry) : PeerEntry :=
  { e with
    sessionCount := e.sessionCount + 1
    nextTxSeq := 0
    oldestUnacked := 0
    heldLimit := 0
    expected := 0
    grantLimit := 0
    retryCount := 0
    openPending := false
    acceptPending := false
    ackPending := false
    grantPending := false
    creditDue := false
    joinTimer := 0
    silenceTimer := 0
    ackTimer := 0
    ackDelayTimer := 0 }

/-- The entry after the carrying rule compares the ack and limit that a frame carried (R61). -/
def PeerEntry.carry (c : Carried) (e : PeerEntry) : PeerEntry :=
  let ackPending := e.ackPending && c.ack != e.expected
  let grantPending := e.grantPending && c.limit != e.grantLimit
  if ackPending || grantPending then { e with ackPending := ackPending, grantPending := grantPending }
  else { e with ackPending := false, grantPending := false, creditDue := false, ackDelayTimer := 0 }

/-- One TU of an entry's timers; the join and ack timers stand still while they are held (R46, R68). -/
def PeerEntry.tick (timersHeld : Bool) (e : PeerEntry) : PeerEntry :=
  { e with
    joinTimer := if timersHeld then e.joinTimer else tickTimer e.joinTimer
    silenceTimer := tickTimer e.silenceTimer
    ackTimer := if timersHeld then e.ackTimer else tickTimer e.ackTimer
    ackDelayTimer := tickTimer e.ackDelayTimer }

/-- Every entry of the table changed by one function. -/
def mapPeers (f : PeerEntry → PeerEntry) (v : Vector PeerEntry 31) : Vector PeerEntry 31 :=
  ⟨⟨v.toList.map f⟩, by simp⟩

/-! ### The line interface unit -/

/-- The LIU is enabled in RUNNING, DETACHED and LEAVING (R11). -/
def OpState.enabled : OpState → Bool
  | .running => true
  | .detached => true
  | .leaving => true
  | .unconfigured => false
  | .ready => false

/-- The LIU is enabled. -/
def State.enabled (s : State) : Bool := s.control.opState.enabled

/-- The part is RUNNING. -/
def State.isRunning (s : State) : Bool := s.control.opState == .running

/-- The LIU becomes disabled: line released, both buffers and the staging record emptied, no outcome (R23, R105). Nothing
is presented to a disabled LIU (log entry 12). -/
def State.disableLiu (s : State) : State :=
  { s with liu := .disabled, txs := { s.txs with staged := none, presented := none } }

/-- Entry into RECOVERING: the idle count becomes 0 and the line is released (R3, R8, R18). -/
def Liu.recover (l : Liu) : Liu := { l with line := .recovering, idleCount := 0, ltxLow := false }

/-- The LIU goes idle at the end of a frame or of recovery (R3, R10). -/
def Liu.becomeIdle (l : Liu) : Liu := { l with line := .idle, idleCount := Config.idleSamples, ltxLow := false }

/-- The line is idle at the LIU: enabled and in IDLE (R6, R11). -/
def State.lineIdle (s : State) : Bool := s.enabled && s.liu.line == .idle

end Sys2Proof.Machine
end

