-- ==== Sys2Proof/Machine/Flags.lean ====
section
/-! DEFINITION. The bits and bytes the host sees of the state: summary byte (R159), IRQn (R169), status and encoding
values (R161, R171, R172, R174), and the health level that a score gives (R129). -/

namespace Sys2Proof.Machine

/-- The statuses (R161). -/
inductive Status where
  | ok
  | empty
  | full
  | noPeer
  | badDest
  | badLength
  | badUrgency
  | noSuch
  | staged
  | inFlight
  | wrongState
  | badConfig
  | unknownCommand
  deriving DecidableEq, Repr

/-- The status byte (R161). -/
def Status.byte : Status → Byte
  | .ok => 0x00
  | .empty => 0x01
  | .full => 0x02
  | .noPeer => 0x03
  | .badDest => 0x04
  | .badLength => 0x05
  | .badUrgency => 0x06
  | .noSuch => 0x07
  | .staged => 0x08
  | .inFlight => 0x09
  | .wrongState => 0x0A
  | .badConfig => 0x0B
  | .unknownCommand => 0x0C

/-- The operating state's code (R159). -/
def OpState.code : OpState → BitVec 3
  | .unconfigured => 0
  | .ready => 1
  | .running => 2
  | .detached => 3
  | .leaving => 4

/-- The level's code (R159, R172). -/
def Level.code : Level → BitVec 1
  | .sound => 0
  | .guarded => 1

/-- The association state's code (R171). -/
def AssocState.code : AssocState → Byte
  | .absent => 0
  | .syncing => 1
  | .linked => 2
  | .lost => 3
  | .self => 4

/-- The outcome's code (R174). -/
def SlotOutcome.code : SlotOutcome → Byte
  | .delivered => 0
  | .sent => 1
  | .cancelled => 2
  | .inDoubt => 3
  | .peerGone => 4

/-- One bit from a condition. -/
def bitOf (b : Bool) : BitVec 1 := BitVec.ofBool b

/-- The summary byte of the state as it stands (R159). -/
def State.summary (s : State) : Byte :=
  (0 : BitVec 1) ++ bitOf (!s.hpt.notices.isEmpty) ++ bitOf (!s.txs.completions.isEmpty) ++ bitOf (!s.mst.delivery.isEmpty)
    ++ s.hmn.level.code ++ s.control.opState.code

/-- Whether an interrupt cause holds (R169). -/
def State.irqCause (s : State) : Bool :=
  (s.cfg.deliveryInterrupt && !s.mst.delivery.isEmpty) || (s.cfg.completionInterrupt && !s.txs.completions.isEmpty)
    || (s.cfg.noticeInterrupt && !s.hpt.notices.isEmpty)

/-- IRQn follows the causes (R169). -/
def State.evaluateIrq (s : State) : State := s.onHpt fun t => { t with irqnLow := s.irqCause }

/-- The flags byte of READ_PEER (R171). -/
def PeerEntry.flagsByte (e : PeerEntry) : Byte :=
  (0 : BitVec 3) ++ bitOf e.creditDue ++ bitOf e.grantPending ++ bitOf e.ackPending ++ bitOf e.acceptPending
    ++ bitOf e.openPending

/-- A number in one byte. -/
def byteOf (n : Nat) : Byte := BitVec.ofNat 8 n

/-- A number in two bytes, high byte first. -/
def wordBytes (n : Nat) : List Byte := bytesOf16 (BitVec.ofNat 16 n)

/-- A number in three bytes, high byte first. -/
def tripleBytes (n : Nat) : List Byte :=
  let w := BitVec.ofNat 24 n
  [w.extractLsb' 16 8, w.extractLsb' 8 8, w.extractLsb' 0 8]

/-- The result of READ_PEER, 18 bytes (R47, R171). -/
def PeerEntry.resultBytes (e : PeerEntry) : List Byte :=
  [e.state.code, e.peerEpoch, e.nextTxSeq.setWidth 8, e.oldestUnacked.setWidth 8, e.heldLimit.setWidth 8,
    e.expected.setWidth 8, e.grantLimit.setWidth 8, e.flagsByte, byteOf e.retryCount, e.sessionCount]
  ++ wordBytes e.joinTimer ++ tripleBytes e.silenceTimer ++ wordBytes e.ackTimer ++ [byteOf e.ackDelayTimer]

/-- The result of READ_MESSAGE for a record, 7 + n bytes (R83, R174). -/
def DeliveryRecord.resultBytes (r : DeliveryRecord) : List Byte :=
  let kindBytes : List Byte :=
    match r.kind with
    | .data seq => [0, seq.setWidth 8, 0]
    | .group i tag => [1, byteOf i.val, tag]
  byteOf r.source.val :: (kindBytes ++ byteOf r.payload.length :: (bytesOf16 r.arrival ++ r.payload))

/-- The result of READ_COMPLETION for a slot, 4 bytes (R96, R174); only a COMPLETE slot stands in the queue (R90). -/
def completionBytes (h : Handle) : Slot → List Byte
  | .complete m _ o => byteOf h.val :: (bytesOf16 m.cookie ++ [o.code])
  | _ => []

/-- Kind, station and detail bytes of a notice; fields of other kinds read 0 (R174). -/
def NoticeKind.bytes : NoticeKind → List Byte
  | .peerLinked p => [0, byteOf p.val, 0]
  | .peerRestarted p => [1, byteOf p.val, 0]
  | .peerLost p .silence => [2, byteOf p.val, 0]
  | .peerLost p .retries => [2, byteOf p.val, 1]
  | .peerLost p .join => [2, byteOf p.val, 2]
  | .peerLeft p => [3, byteOf p.val, 0]
  | .healthChanged .sound => [4, 0, 0]
  | .healthChanged .guarded => [4, 0, 1]
  | .healthChanged .detached => [4, 0, 2]
  | .addressClash => [5, 0, 0]
  | .leaveDone timedOut => [6, 0, if timedOut then 1 else 0]

/-- The result of READ_NOTICE for a record, 5 bytes (R174, R179). -/
def Notice.resultBytes (n : Notice) : List Byte := n.kind.bytes ++ bytesOf16 n.stamp

/-- The result of READ_COUNTERS for a snapshot, 24 bytes (R174, R183). -/
def Counters.resultBytes (b : Counters) : List Byte := b.toList.flatMap wordBytes

/-- What HMN makes of a new score under the level that stands (R129). -/
inductive LevelStep where
  | keep
  | toGuarded
  | toSound
  | toDetached
  deriving DecidableEq, Repr

/-- The level table (R129). -/
def levelStep (level : Level) (score : Nat) : LevelStep :=
  if 192 ≤ score then .toDetached
  else match level with
    | .sound => if 96 ≤ score then .toGuarded else .keep
    | .guarded => if score < 64 then .toSound else .keep

end Sys2Proof.Machine
end

