-- ==== Sys2Proof/Machine/Store.lean ====
section
/-! DEFINITION. The message store: commitment arithmetic, grants and their rotation, storing and releasing records
(chapter Credit and the Message Store). -/

namespace Sys2Proof.Machine

/-! ### Commitment (R73) -/

/-- ΣR_p over the 31 entries (R73). -/
def Pen.reserved (n : Pen) : Nat := (n.peers.toList.map PeerEntry.reservation).sum

/-- The group headroom still open, G − storedGroup (R73). -/
def State.headroomOpen (s : State) : Nat := s.cfg.headroom - s.mst.storedGroup

/-- The uncommitted records (R73). By the law of R73 the subtraction never goes below 0 (log entry 14). -/
def State.uncommitted (s : State) : Nat :=
  Config.storeSize - (s.mst.stored + s.pen.reserved + s.headroomOpen)

/-! ### Grants (R77, R78) -/

/-- A peer is eligible for a grant (R77). -/
def State.eligible (s : State) (p : Station) : Bool :=
  s.isRunning && (s.peer p).isLive && decide ((s.peer p).reservation < s.cfg.quota)

/-- The entry of a peer after one grant: steps 1 and 2 (R78). -/
def PeerEntry.granted (ackDelay : Nat) (e : PeerEntry) : PeerEntry :=
  { e with grantLimit := e.grantLimit + 1 }.setGrantPending ackDelay

/-- One grant to a peer (R78). -/
def State.grantTo (p : Station) (s : State) : State :=
  (s.onPeer p (PeerEntry.granted s.cfg.ackDelay)).onMst fun m => { m with rotation := p }

/-- The peer the next grant goes to: the first eligible one after the rotation pointer, while uncommitted is above 0
(R78). -/
def State.nextGrant (s : State) : Option Station :=
  if s.uncommitted = 0 then none else (rotationFrom s.mst.rotation).find? s.eligible

/-- Grants one at a time, at most `n` of them (R78). -/
def grantLoop : Nat → State → State
  | 0, s => s
  | n + 1, s =>
    match s.nextGrant with
    | none => s
    | some p => grantLoop n (s.grantTo p)

/-- A grant attempt (R78). It makes at most uncommitted grants, so at most as many as the store has records. -/
def State.grantAttempt (s : State) : State := grantLoop Config.storeSize s

/-! ### Storing and releasing (R75, R76, R84) -/

/-- A delivery record is a GROUP record. -/
def DeliveryRecord.isGroup (r : DeliveryRecord) : Bool :=
  match r.kind with
  | .group _ _ => true
  | .data _ => false

/-- 1 for a GROUP record, 0 for a DATA record. -/
def DeliveryRecord.groupCount (r : DeliveryRecord) : Nat := if r.isGroup then 1 else 0

/-- MST stores a record at the tail of the delivery queue (R70, R75, R76). -/
def Mst.store (r : DeliveryRecord) (m : Mst) : Mst :=
  { m with delivery := m.delivery ++ [r], stored := m.stored + 1, storedGroup := m.storedGroup + r.groupCount }

/-- The head record leaves the queue and becomes free: steps 1 and 2 (R84). -/
def Mst.release (m : Mst) : Mst :=
  match m.delivery with
  | [] => m
  | r :: rest =>
    { m with delivery := rest, stored := m.stored - 1, storedGroup := m.storedGroup - r.groupCount }

/-- The release of the head record, and the grant attempt that follows it (R84). -/
def State.releaseMessage (s : State) : State :=
  if s.mst.delivery.isEmpty then s else (s.onMst Mst.release).grantAttempt

/-! ### The group filter table (R115, R116, R117) -/

/-- A tag matches a filter entry (R116). -/
def filterAccepts (tag : Byte) (f : FilterEntry) : Bool := f.enabled && ((tag ^^^ f.value) &&& f.mask) == 0

/-- The accepting entry for a tag: the enabled entry with the lowest index that the tag matches (R116). -/
def acceptingEntry (filters : Vector FilterEntry 8) (tag : Byte) : Option (Fin 8) :=
  (List.finRange 8).find? fun i => filterAccepts tag filters[i]

/-- A GROUP frame at the filter table and the headroom test (R76, R117). -/
def State.groupReceived (p : Station) (tag : Byte) (payload : List Byte) (s : State) : State :=
  match acceptingEntry s.cfg.filters tag with
  | none => s.count .groupFiltered
  | some i =>
    if s.mst.storedGroup < s.cfg.headroom then s.onMst (Mst.store ⟨p, .group i tag, payload, s.stamp⟩)
    else s.count .groupNoRoom

end Sys2Proof.Machine
end

