-- ==== Sys2Proof/Machine/Sessions.lean ====
section
/-! DEFINITION. The peer engine: session restart and end, association, acknowledgement, limit and sequence processing
(chapters Stations and Sessions, Sequencing and Recovery). -/

namespace Sys2Proof.Machine

/-- The size of the sequence space: a span of 64 numbers reaches every seq once (section 1.7). -/
def seqSpace : Nat := 64

/-! ### Session restart and session end (R30, R31) -/

/-- The completions of a session restart: the SENT slots in sequence order, then a staged first send, all INDOUBT
(R30 step 2, R31 step 2). -/
def Txs.voidSession (p : Station) (oldest : Seq) (t : Txs) : Txs :=
  let t' := t.completeAll .inDoubt (t.sentInSequence p oldest seqSpace)
  t'.completeAll .inDoubt (t'.stagedQueuedTo p)

/-- The completions of a session end: those of a restart, then every other QUEUED DATA slot PEER_GONE in submission order
(R31 step 2). -/
def Txs.endSession (p : Station) (oldest : Seq) (t : Txs) : Txs :=
  let t' := t.voidSession p oldest
  t'.completeAll .peerGone (t'.queuedFor p)

/-- A session restart (R30). -/
def State.sessionRestart (p : Station) (s : State) : State :=
  (s.onTxs (Txs.voidSession p (s.peer p).oldestUnacked)).onPeer p (PeerEntry.restarted s.cfg.ackDelay)

/-- A session end, steps 1 to 4, with the state and peerEpoch that the calling rule gives the entry (R31). Step 5, the
grant attempt, is made by the calling rule once the entry stands in its new state (R79). -/
def State.sessionEnd (p : Station) (state : AssocState) (peerEpoch : Epoch) (s : State) : State :=
  (s.onTxs (Txs.endSession p (s.peer p).oldestUnacked)).onPeer p fun e =>
    { e.ended with state := state, peerEpoch := peerEpoch }

/-- The loss of a peer: session end, LOST with its peerEpoch kept, PEER_LOST, and the grant attempt for the others (R42,
R43, R63). -/
def State.losePeer (p : Station) (cause : LossCause) (s : State) : State :=
  ((s.sessionEnd p .lost (s.peer p).peerEpoch).raise (.peerLost p cause)).grantAttempt

/-- The end of every session at DETACHED and at LEAVE, one peer: a SYNCING or LINKED entry is ended, and it or a LOST entry
becomes ABSENT with peerEpoch 0 (R133, R150). -/
def State.withdrawPeer (s : State) (p : Station) : State :=
  if (s.peer p).isLive then s.sessionEnd p .absent 0
  else if (s.peer p).state = .lost then s.onPeer p fun e => { e with state := .absent, peerEpoch := 0 }
  else s

/-- The end of every session, in ascending address order (R31, R133, R150). -/
def State.withdrawAll (s : State) : State := stations.foldl State.withdrawPeer s

/-! ### Association (R32 to R41) -/

/-- A frame is discarded as stale (R28). -/
def State.stale (s : State) : State := s.count .staleFrames

/-- A session restart, with PEER_RESTARTED if the peer was LINKED (R32 step 1, R37 step 1). -/
def State.restartNoticed (p : Station) (s : State) : State :=
  if (s.peer p).state = .linked then (s.sessionRestart p).raise (.peerRestarted p) else s.sessionRestart p

/-- Resynchronise a peer with an epoch (R32). -/
def State.resynchronise (p : Station) (epoch : Epoch) (s : State) : State :=
  let s' := if (s.peer p).isLive then s.restartNoticed p else s
  (s'.onPeer p fun e =>
    { e with
      peerEpoch := epoch
      state := .syncing
      openPending := true
      acceptPending := false
      joinTimer := s.cfg.ackTimeout
      silenceTimer := silenceLimit s.cfg }).grantAttempt

/-- The liveness refresh: the silence timer of a SYNCING or LINKED entry starts again in full (R44). -/
def State.refresh (p : Station) (s : State) : State :=
  s.onPeer p fun e => if e.isLive then { e with silenceTimer := silenceLimit s.cfg } else e

/-- The liveness refresh of a frame that bears a srcEpoch: only where it matches (R44). -/
def State.refreshIfMatching (p : Station) (srcEpoch : Epoch) (s : State) : State :=
  if srcEpoch = (s.peer p).peerEpoch then s.refresh p else s

/-- A HELLO with the LEAVING flag (R34). -/
def State.leavingHelloReceived (p : Station) (s : State) : State :=
  match (s.peer p).state with
  | .syncing => ((s.sessionEnd p .absent 0).raise (.peerLeft p)).grantAttempt
  | .linked => ((s.sessionEnd p .absent 0).raise (.peerLeft p)).grantAttempt
  | .lost => s.onPeer p fun e => { e with state := .absent, peerEpoch := 0 }
  | .absent => s
  | .self => s

/-- A HELLO without the LEAVING flag, its epoch not 0 (R33). -/
def State.helloReceived (p : Station) (epoch : Epoch) (s : State) : State :=
  match (s.peer p).state with
  | .absent => s.resynchronise p epoch
  | .lost => s.resynchronise p epoch
  | .syncing => if epoch = (s.peer p).peerEpoch then s else s.resynchronise p epoch
  | .linked => if epoch = (s.peer p).peerEpoch then s else s.resynchronise p epoch
  | .self => s

/-- The greatest limit an OPEN may carry (R37, R74). -/
def openLimitMax : Nat := 15

/-- An OPEN whose dstEpoch matches links the peer, unless its limit is above 15 (R37). -/
def State.openLink (p : Station) (srcEpoch : Epoch) (limit : Seq) (s : State) : State :=
  if openLimitMax < limit.toNat then s.stale
  else
    (((s.restartNoticed p).onPeer p fun e =>
      { e with
        peerEpoch := srcEpoch
        heldLimit := limit
        state := .linked
        openPending := false
        acceptPending := true
        joinTimer := 0
        silenceTimer := silenceLimit s.cfg }).raise (.peerLinked p)).grantAttempt

/-- An OPEN addressed here, its srcEpoch not 0 (R37, R38). -/
def State.openReceived (p : Station) (srcEpoch dstEpoch : Epoch) (limit : Seq) (s : State) : State :=
  if dstEpoch = s.control.epoch then s.openLink p srcEpoch limit else s.resynchronise p srcEpoch

/-! ### Acknowledgement and limit (R49 to R53) -/

/-- An ack is valid (R50). -/
def PeerEntry.ackValid (a : Seq) (e : PeerEntry) : Bool :=
  decide ((a - e.oldestUnacked).toNat ≤ (e.nextTxSeq - e.oldestUnacked).toNat)

/-- A limit is valid against an ack (R53). -/
def limitValid (a l : Seq) : Bool := decide ((l - a).toNat ≤ 15)

/-- A valid ack is applied: progress, or nothing when it equals oldestUnacked (R51). -/
def State.takeAck (p : Station) (a : Seq) (s : State) : State :=
  let e := s.peer p
  if a = e.oldestUnacked then s
  else
    let t := s.txs.completeAll .delivered (s.txs.sentInSequence p e.oldestUnacked (a - e.oldestUnacked).toNat)
    { s with txs := t }.onPeer p fun e =>
      { e with oldestUnacked := a, retryCount := 0, ackTimer := if t.anySent p then s.cfg.ackTimeout else 0 }

/-- A valid limit is taken unless it is behind the one held, both read upward from the ack (R53). -/
def PeerEntry.takeLimit (a l : Seq) (e : PeerEntry) : PeerEntry :=
  if (e.heldLimit - a).toNat ≤ (l - a).toNat then { e with heldLimit := l } else e

/-- Ack and limit processing: none where either field makes the frame stale (R49). -/
def State.takeAckLimit (p : Station) (a l : Seq) (s : State) : Option State :=
  if (s.peer p).ackValid a && limitValid a l then some ((s.takeAck p a).onPeer p (PeerEntry.takeLimit a l)) else none

/-- A frame from a peer is current (R28). -/
def State.isCurrent (s : State) (p : Station) (srcEpoch dstEpoch : Epoch) : Bool :=
  srcEpoch == (s.peer p).peerEpoch && dstEpoch == s.control.epoch

/-- A SYNCING peer links by ACCEPT (R39). -/
def State.acceptLink (p : Station) (s : State) : State :=
  ((s.onPeer p fun e => { e with state := .linked, retryCount := 0, joinTimer := 0, openPending := false }).raise
    (.peerLinked p)).grantAttempt

/-- An ACCEPT addressed here, its srcEpoch not 0 (R39). -/
def State.acceptReceived (p : Station) (srcEpoch dstEpoch : Epoch) (a l : Seq) (s : State) : State :=
  if (s.peer p).isLive && s.isCurrent p srcEpoch dstEpoch then
    match s.takeAckLimit p a l with
    | none => s.stale
    | some s' => if (s.peer p).state = .syncing then s'.acceptLink p else s'
  else s.stale

/-- A CREDIT or DATA frame passes the epoch test (R41). -/
def State.passesEpochTest (s : State) (p : Station) (srcEpoch dstEpoch : Epoch) : Bool :=
  (s.peer p).state == .linked && s.isCurrent p srcEpoch dstEpoch

/-- A CREDIT addressed here, its srcEpoch not 0 (R41, R49, R60). -/
def State.creditReceived (p : Station) (srcEpoch dstEpoch : Epoch) (a l : Seq) (s : State) : State :=
  if s.passesEpochTest p srcEpoch dstEpoch then
    match s.takeAckLimit p a l with
    | none => s.stale
    | some s' => s'
  else s.stale

/-! ### Receiving DATA (R55, R56, R57) -/

/-- The decisions on a DATA frame's seq (R55). -/
inductive SeqDecision where
  | accept
  | creditViolation
  | duplicate
  | outOfOrder
  deriving DecidableEq, Repr

/-- The decision on a seq against expected and the reservation (R55). -/
def PeerEntry.seqDecision (q : Seq) (e : PeerEntry) : SeqDecision :=
  if q = e.expected then
    if 0 < e.reservation then .accept else .creditViolation
  else if (e.expected - q).toNat ≤ 32 then .duplicate
  else .outOfOrder

/-- The seq field of a DATA frame takes its decision's effect (R55, R56, R57). -/
def State.takeSeq (p : Station) (q : Seq) (payload : List Byte) (s : State) : State :=
  match (s.peer p).seqDecision q with
  | .accept =>
    (s.onMst (Mst.store ⟨p, .data q, payload, s.stamp⟩)).onPeer p fun e =>
      { e with expected := e.expected + 1 }.setAckPending s.cfg.ackDelay
  | .creditViolation => s.count .creditViolations
  | .duplicate => (s.count .duplicates).onPeer p (PeerEntry.setAckPending s.cfg.ackDelay)
  | .outOfOrder => (s.count .outOfOrder).onPeer p (PeerEntry.setAckPending s.cfg.ackDelay)

/-- A DATA frame addressed here, its srcEpoch not 0 (R41, R49, R55). -/
def State.dataReceived (p : Station) (srcEpoch dstEpoch : Epoch) (q a l : Seq) (payload : List Byte) (s : State) :
    State :=
  if s.passesEpochTest p srcEpoch dstEpoch then
    match s.takeAckLimit p a l with
    | none => s.stale
    | some s' => s'.takeSeq p q payload
  else s.stale

/-! ### Routing at FCL (R21, R28, R44) -/

/-- A control frame addressed here, with its liveness step (R28, R44). For OPEN the step follows the association rule. -/
def State.controlReceived (p : Station) (k : ControlKind) (srcEpoch dstEpoch : Epoch) (a l : Seq) (s : State) : State :=
  if srcEpoch = 0 then s.stale
  else match k with
    | .openFrame => (s.openReceived p srcEpoch dstEpoch l).refreshIfMatching p srcEpoch
    | .acceptFrame => (s.refreshIfMatching p srcEpoch).acceptReceived p srcEpoch dstEpoch a l
    | .creditFrame => (s.refreshIfMatching p srcEpoch).creditReceived p srcEpoch dstEpoch a l

/-- A frame addressed to another station ends after the liveness step (R21, R44). -/
def State.overheard (p : Station) (srcEpoch : Epoch) (s : State) : State :=
  if srcEpoch = 0 then s else s.refreshIfMatching p srcEpoch

/-- A good frame record from a peer address at FCL in RUNNING (R21). -/
def State.routeFrame (p : Station) (f : FrameBody) (s : State) : State :=
  match f with
  | .group tag payload => (s.refresh p).groupReceived p tag payload
  | .hello epoch leaving =>
    if epoch = 0 then s.stale
    else if leaving then s.leavingHelloReceived p
    else (s.helloReceived p epoch).refresh p
  | .control k dest srcEpoch dstEpoch a l =>
    if dest = s.control.ownAddr then s.controlReceived p k srcEpoch dstEpoch a l else s.overheard p srcEpoch
  | .data dest srcEpoch dstEpoch q a l payload =>
    if dest = s.control.ownAddr then
      if srcEpoch = 0 then s.stale
      else (s.refreshIfMatching p srcEpoch).dataReceived p srcEpoch dstEpoch q a l payload
    else s.overheard p srcEpoch

end Sys2Proof.Machine
end

