-- ==== Sys2Proof/Machine/Health.lean ====
section
/-! DEFINITION. The health monitor: score, level, entry into DETACHED and the rejoin (chapter Line Health). -/

namespace Sys2Proof.Machine

/-- The reports HMN takes (R127). -/
inductive HealthReport where
  | readbackFault
  | addressClash
  | checkError
  | sentOk
  | goodFrame
  deriving DecidableEq, Repr

/-- The score after a report: it stays within 0 to 255 and does not wrap (R126, R127). -/
def scoreAfter (r : HealthReport) (score : Nat) : Nat :=
  match r with
  | .readbackFault => min Config.scoreMax (score + 8)
  | .addressClash => min Config.scoreMax (score + 8)
  | .checkError => min Config.scoreMax (score + 1)
  | .sentOk => score - 2
  | .goodFrame => score - 1

/-- Entry into DETACHED, steps 1 to 5 (R133). -/
def State.enterDetached (s : State) : State :=
  let s1 := (s.onControl fun c => { c with opState := .detached }).withdrawAll
  let s2 := s1.onPen fun n => { n with helloTimer := 0, helloDue := false }
  (s2.onHmn fun m => { m with holdoff := s.cfg.holdoff }).raise (.healthChanged .detached)

/-- HMN evaluates the level at a change of the score (R129, R130, R132). -/
def State.evaluateLevel (s : State) : State :=
  match levelStep s.hmn.level s.hmn.score with
  | .keep => s
  | .toGuarded => (s.onHmn fun m => { m with level := .guarded }).raise (.healthChanged .guarded)
  | .toSound => (s.onHmn fun m => { m with level := .sound }).raise (.healthChanged .sound)
  | .toDetached => s.enterDetached

/-- A report reaches HMN: it changes the score in RUNNING only, and a score that does not change is not evaluated (R127,
R128, R129). -/
def State.healthReport (r : HealthReport) (s : State) : State :=
  if s.isRunning && scoreAfter r s.hmn.score != s.hmn.score then
    (s.onHmn fun m => { m with score := scoreAfter r m.score }).evaluateLevel
  else s

/-- The hello timer starts in full and hello-due is set (R35). -/
def State.startHello (s : State) : State :=
  s.onPen fun n => { n with helloTimer := s.cfg.helloInterval, helloDue := true }

/-- The rejoin at the holdoff's expiry, steps 1 to 5 (R137). -/
def State.rejoin (s : State) : State :=
  let s1 := s.onControl fun c => { c with epoch := nextEpoch c.epoch, opState := .running }
  ((s1.onHmn fun _ => ⟨0, .sound, 0⟩).startHello).raise (.healthChanged .sound)

end Sys2Proof.Machine
end

