-- ==== Sys2Proof/Machine/Operating.lean ====
section
/-! DEFINITION. The control section: acceptance of CONFIGURE, START, LEAVE, the end of LEAVING, and the soft reset (chapter
Configuration and Operating States). -/

namespace Sys2Proof.Machine

/-- The acceptance of a configuration record (R146). -/
def State.acceptConfig (c : ConfigRecord) (s : State) : State :=
  s.onControl fun k => { k with config := some c, epoch := c.epoch, opState := .ready }

/-- START, steps 1 to 4 (R148). -/
def State.startRun (s : State) : State :=
  let s1 := s.onControl fun k => { k with opState := .running }
  let s2 := s1.onHmn fun m => { m with score := 0, level := .sound }
  (s2.onLiu Liu.recover).startHello

/-- The QUEUED slots that the staging record does not name, in submission order (R112). -/
def Txs.unstagedQueued (t : Txs) : List Handle :=
  t.order.filter fun h => (t.slot h).isQueued && t.stagedHandle != some h

/-- LEAVE, steps 1 to 6 (R150). -/
def State.beginLeaving (s : State) : State :=
  let s1 := s.onHmn fun m => { m with holdoff := 0 }
  let s2 := s1.onControl fun k => { k with opState := .leaving }
  let s3 := s2.onTxs fun t => t.completeAll .cancelled t.unstagedQueued
  let s4 := s3.withdrawAll
  let s5 := s4.onPen fun n => { n with helloTimer := 0, helloDue := false }
  s5.onControl fun k => { k with leavingHelloDue := true, leaveLimit := s.cfg.helloInterval }

/-- A staged QUEUED GROUP slot completes CANCELLED (R111, R153 step 1). -/
def Txs.cancelStagedGroup (t : Txs) : Txs :=
  match t.staged with
  | some (.group (some h)) => if (t.slot h).isQueued then t.complete .cancelled h else t
  | _ => t

/-- The end of LEAVING, steps 1 to 6 (R153). -/
def State.endLeaving (timedOut : Bool) (s : State) : State :=
  let s1 := if timedOut then s.onTxs Txs.cancelStagedGroup else s
  let s2 := s1.disableLiu
  (s2.onControl fun k =>
    { k with leaveLimit := 0, leavingHelloDue := false, epoch := nextEpoch k.epoch, opState := .ready }).raise
      (.leaveDone timedOut)

/-- The soft reset, steps 1 to 5 (R154), with the aborted flag cleared (R168). The configuration, the counters, the notice
drop count, the time stamp, the own address and its SELF entry are kept. In UNCONFIGURED there is no epoch to advance. -/
def State.softReset (s : State) : State :=
  { s with
    control :=
      { s.control with
        opState := if s.control.config.isSome then .ready else .unconfigured
        epoch := if s.control.config.isSome then nextEpoch s.control.epoch else s.control.epoch
        leavingHelloDue := false
        leaveLimit := 0 }
    liu := .disabled
    pen := ⟨initialPeers s.control.ownAddr, 0, false⟩
    mst := .cleared
    txs := .cleared
    hmn := .cleared
    hpt := { s.hpt with notices := [], port := { s.hpt.port with aborted := false } } }

end Sys2Proof.Machine
end

