-- ==== Sys2Proof/Machine/Scheduler.lean ====
section
/-! DEFINITION. The transmit scheduler: candidates, choice, staging, and the outcomes of a staged frame (chapter Transmit
Slots and the Line Scheduler). -/

namespace Sys2Proof.Machine

/-! ### Candidates (R99, R100, R101) -/

/-- The part is RUNNING in SOUND: OPEN, DATA and GROUP frames may be started (R99 to R102). -/
def State.mayStartMessages (s : State) : Bool := s.isRunning && s.hmn.level == .sound

/-- PEN's flags offer a control frame (R99). -/
def State.controlOffered (s : State) (k : ControlKind) (p : Station) : Bool :=
  let e := s.peer p
  match k with
  | .acceptFrame => s.isRunning && e.acceptPending && e.state == .linked
  | .openFrame => s.mayStartMessages && e.openPending && e.state == .syncing
  | .creditFrame => s.isRunning && e.creditDue && e.state == .linked

/-- The urgency of the message in a slot (R89); a FREE slot has none and answers 0. -/
def Slot.urgency : Slot → BitVec 2
  | .free => 0
  | .queued m => m.urgency
  | .sent m _ _ => m.urgency
  | .complete m _ _ => m.urgency

/-- The first of the handles with the least key. -/
def leastBy (key : Handle → Nat) : List Handle → Option Handle
  | [] => none
  | h :: rest =>
    match leastBy key rest with
    | none => some h
    | some k => if key h ≤ key k then some h else some k

/-- The marked slot of a peer whose seq lies lowest, read upward from oldestUnacked (R64, R100). -/
def Txs.firstMarked (p : Station) (oldest : Seq) (t : Txs) : Option Handle :=
  (t.sentInSequence p oldest seqSpace).find? fun h => (t.slot h).isMarkedFor p

/-- The QUEUED DATA slot of a peer with the lowest urgency value, and among those the oldest (R100). -/
def Txs.nextToSend (p : Station) (t : Txs) : Option Handle :=
  leastBy (fun h => (t.slot h).urgency.toNat) (t.queuedFor p)

/-- The DATA candidate of a peer: a resend while it has a marked slot, else a first send within held credit (R100). -/
def State.dataCandidate (s : State) (p : Station) : Option Candidate :=
  let e := s.peer p
  if s.mayStartMessages && e.state == .linked then
    match s.txs.firstMarked p e.oldestUnacked with
    | some h => some (.resend h p)
    | none => if 1 ≤ e.heldCredit then (s.txs.nextToSend p).map fun h => .firstSend h p else none
  else none

/-- A slot's resend candidate, if it is its peer's DATA candidate (R100). -/
def State.resendOf (s : State) (h : Handle) : Option Candidate :=
  match s.txs.slot h with
  | .sent m _ _ =>
    match m.target with
    | .data p => if s.dataCandidate p = some (.resend h p) then some (.resend h p) else none
    | .group _ => none
  | _ => none

/-- A slot's first-send or GROUP candidate (R100, R101). -/
def State.messageOf (s : State) (h : Handle) : Option Candidate :=
  match s.txs.slot h with
  | .queued m =>
    match m.target with
    | .data p => if s.dataCandidate p = some (.firstSend h p) then some (.firstSend h p) else none
    | .group _ => if s.mayStartMessages && s.txs.stagedHandle != some h then some (.group h) else none
  | _ => none

/-- The HELLO is a candidate (R101). -/
def State.helloOffered (s : State) : Bool := s.isRunning && s.pen.helloDue

/-- The LEAVING HELLO is a candidate (R101, R151). -/
def State.leavingHelloOffered (s : State) : Bool :=
  s.control.opState == .leaving && s.control.leavingHelloDue

/-! ### The choice (R103) -/

/-- The control frame that wins urgency 0: ACCEPT before OPEN before CREDIT, each in rotation from the control pointer
(R103 step 3, R104). -/
def State.controlChoice (s : State) : Option Candidate :=
  [ControlKind.acceptFrame, .openFrame, .creditFrame].findSome? fun k =>
    ((rotationFrom s.txs.controlPtr).find? (s.controlOffered k)).map (.control k)

/-- The slots of one urgency, oldest first. -/
def Txs.ofUrgency (u : BitVec 2) (t : Txs) : List Handle := t.order.filter fun h => (t.slot h).urgency == u

/-- The winner within an urgency 1 to 3: the oldest resend, else the oldest first send or GROUP, else at urgency 3 the
HELLO (R103 steps 2 and 4 to 6). -/
def State.choiceAt (s : State) (u : BitVec 2) : Option Candidate :=
  let hs := s.txs.ofUrgency u
  ((hs.findSome? s.resendOf).or (hs.findSome? s.messageOf)).or
    (if u = 3 ∧ s.helloOffered then some .hello else none)

/-- The winner of a choice (R103): urgency 0 before 1 before 2 before 3. -/
def State.choose (s : State) : Option Candidate :=
  ((((s.controlChoice.or (if s.leavingHelloOffered then some .leavingHello else none)).or (s.choiceAt 1)).or
    (s.choiceAt 2)).or (s.choiceAt 3))

/-- A contention opportunity: while the line is idle and nothing is staged, TXS presents the winner (R98). -/
def State.contentionOpportunity (s : State) : State :=
  if s.lineIdle && s.txs.staged.isNone then s.onTxs fun t => { t with presented := s.choose } else s

/-- What every event ends with: TXS has chosen for the state the event left (R98, log entry 12), and IRQn follows the
queues (R169). -/
def State.finish (s : State) : State := s.contentionOpportunity.evaluateIrq

/-! ### Staging (R105) -/

/-- A peer's address as a frame carries it. -/
def stationAddress (p : Station) : Address := BitVec.ofNat 5 p.val

/-- What a frame to a peer carries at its staging (R58, R105). -/
def PeerEntry.carried (e : PeerEntry) : Carried := ⟨e.sessionCount, e.expected, e.grantLimit⟩

/-- The urgency, the frame and the staging record of a candidate, from the state as it stands (R40, R58, R60, R105). None
where the candidate's slot is not in the state it was offered in, which no reachable state shows. -/
def State.buildFrame (s : State) (c : Candidate) : Option (BitVec 2 × FrameBody × StagingRecord) :=
  let epoch := s.control.epoch
  match c with
  | .hello => some (3, .hello epoch false, .hello epoch)
  | .leavingHello => some (0, .hello epoch true, .leavingHello epoch)
  | .control k p =>
    let e := s.peer p
    some (0, .control k (stationAddress p) epoch e.peerEpoch e.expected e.grantLimit, .control k p e.carried)
  | .firstSend h p =>
    let e := s.peer p
    match s.txs.slot h with
    | .queued m =>
      some (m.urgency, .data (stationAddress p) epoch e.peerEpoch e.nextTxSeq e.expected e.grantLimit m.payload,
        .firstSend (some h) p e.nextTxSeq e.carried)
    | _ => none
  | .resend h p =>
    let e := s.peer p
    match s.txs.slot h with
    | .sent m q _ =>
      some (m.urgency, .data (stationAddress p) epoch e.peerEpoch q e.expected e.grantLimit m.payload,
        .resend (some h) p q e.carried)
    | _ => none
  | .group h =>
    match s.txs.slot h with
    | .queued m =>
      match m.target with
      | .group tag => some (m.urgency, .group tag m.payload, .group (some h))
      | .data _ => none
    | _ => none

/-- The frame copy the LIU takes (R12, R105). -/
def State.stagedCopy (s : State) (u : BitVec 2) (f : FrameBody) : StagedFrame :=
  ⟨contentionValue u s.control.ownAddr, frameBytes f⟩

/-- The staging moment: the LIU copies the presented candidate, drives the start element and enters CONTENDING; TXS takes
the staging record (R6, R12, R105). -/
def State.stage (s : State) : State :=
  match s.txs.presented.bind s.buildFrame with
  | none => s
  | some (u, f, r) =>
    { s with
      liu := { s.liu with line := .contending, staging := some (s.stagedCopy u f), matched := 0, ltxLow := true }
      txs := { s.txs with staged := some r, presented := none } }

/-- The line idle is taken first: TXS chooses and the LIU stages that choice (R98, R131). -/
def State.chooseAndStage (s : State) : State :=
  if s.lineIdle && s.txs.staged.isNone then s.contentionOpportunity.stage else s

/-! ### Outcomes (R107 to R111) -/

/-- The carrying rule for a peer (R61). -/
def State.carry (p : Station) (c : Carried) (s : State) : State := s.onPeer p (PeerEntry.carry c)

/-- The slot a first send's record names is still its message: QUEUED for the peer, the session unchanged (R107). -/
def State.firstSendStands (s : State) (h : Handle) (p : Station) (c : Carried) : Bool :=
  (s.txs.slot h).isQueuedTo p && (s.peer p).sessionCount == c.sessionCount

/-- A QUEUED slot becomes SENT with a seq (R107). -/
def Slot.becomeSent (q : Seq) (marked : Bool) : Slot → Slot
  | .queued m => .sent m q marked
  | x => x

/-- SENT_OK of a first send (R54, R107). -/
def State.firstSendOk (h : Option Handle) (p : Station) (q : Seq) (c : Carried) (s : State) : State :=
  let s' :=
    match h with
    | none => s
    | some h =>
      if s.firstSendStands h p c then
        (s.onTxs fun t => t.setSlot h ((t.slot h).becomeSent q (t.anyMarked p))).onPeer p fun e =>
          { e with nextTxSeq := e.nextTxSeq + 1, ackTimer := if e.ackTimer = 0 then s.cfg.ackTimeout else e.ackTimer }
      else s
  s'.carry p c

/-- The slot a resend's record names is still its message: SENT for the peer with the staged seq, the session unchanged
(R65). -/
def State.resendStands (s : State) (h : Handle) (p : Station) (q : Seq) (c : Carried) : Bool :=
  (s.txs.slot h).isSentAs p q && (s.peer p).sessionCount == c.sessionCount

/-- SENT_OK of a resend (R65, R108). -/
def State.resendOk (h : Option Handle) (p : Station) (q : Seq) (c : Carried) (s : State) : State :=
  let s1 := s.count .retransmissions
  let s2 :=
    match h with
    | none => s1
    | some h => if s1.resendStands h p q c then s1.onTxs fun t => t.setSlot h ((t.slot h).withMark false) else s1
  s2.carry p c

/-- A SENT_OK of an OPEN or ACCEPT clears its flag, if the session is the one it was staged in (R40, R109). -/
def PeerEntry.controlDone (k : ControlKind) (c : Carried) (e : PeerEntry) : PeerEntry :=
  if e.sessionCount = c.sessionCount then
    match k with
    | .openFrame => { e with openPending := false }
    | .acceptFrame => { e with acceptPending := false }
    | .creditFrame => e
  else e

/-- SENT_OK of a control frame (R61, R104, R109). -/
def State.controlOk (k : ControlKind) (p : Station) (c : Carried) (s : State) : State :=
  ((s.onPeer p (PeerEntry.controlDone k c)).carry p c).onTxs fun t => { t with controlPtr := p }

/-- SENT_OK of a HELLO without the LEAVING flag (R35, R36, R109). -/
def State.helloOk (epoch : Epoch) (s : State) : State :=
  if epoch = s.control.epoch then s.onPen fun n => { n with helloDue := false } else s

/-- A staged QUEUED GROUP slot completes SENT (R108, R123). -/
def Txs.sendStagedGroup (h : Option Handle) (t : Txs) : Txs :=
  match h with
  | none => t
  | some h => if (t.slot h).isQueued then t.complete .sent h else t

/-- The staging record is cleared (R109, R110). -/
def State.clearStaged (s : State) : State := s.onTxs fun t => { t with staged := none }

/-- TXS takes SENT_OK of the staged frame (R107, R108, R109). The LEAVING HELLO ends LEAVING (R152). -/
def State.takeSentOk (s : State) : State :=
  match s.txs.staged with
  | none => s
  | some (.hello epoch) => (s.helloOk epoch).clearStaged
  | some (.leavingHello _) => if s.control.opState = .leaving then s.endLeaving false else s.clearStaged
  | some (.control k p c) => (s.controlOk k p c).clearStaged
  | some (.firstSend h p q c) => (s.firstSendOk h p q c).clearStaged
  | some (.resend h p q c) => (s.resendOk h p q c).clearStaged
  | some (.group h) => (s.onTxs (Txs.sendStagedGroup h)).clearStaged

/-- TXS takes LOST_CONTENTION or ABORTED of the staged frame: the record is cleared and nothing else changes, but for a
GROUP in LEAVING, which completes CANCELLED (R110, R111, R123). -/
def State.takeFailure (s : State) : State :=
  if s.control.opState = .leaving then (s.onTxs Txs.cancelStagedGroup).clearStaged else s.clearStaged

end Sys2Proof.Machine
end

