-- ==== Sys2Proof/Machine/Port.lean ====
section
/-! DEFINITION. The host port: transaction states (R158), judging a command (R162), the answers of the commands, and the
effects at a complete end (R165). -/

namespace Sys2Proof.Machine

/-- What a judged command answers: the status and the result bytes (R161, R162). -/
structure Reply where
  status : Status
  results : List Byte
  deriving DecidableEq, Repr

/-- A reply with no result bytes. -/
def Reply.bare (status : Status) : Reply := ⟨status, []⟩

/-- The answer: the status byte followed by the result bytes (R158). -/
def Reply.answer (r : Reply) : List Byte := r.status.byte :: r.results

/-! ### Transaction states (R158) -/

/-- CSn falls: the summary byte is fixed, the byte count cleared, COMMAND entered (R158, R159). -/
def Port.begin (summary : Byte) (p : Port) : Port := { Port.between .command p.aborted with summary := summary }

/-- Fewer parameter bytes came than the command takes: PARAMETERS, the bytes stored (R158). -/
def Port.awaitParams (c : HostCommand) (params : List Byte) (p : Port) : Port :=
  { p with phase := .parameters, count := params.length, command := some c, params := params }

/-- The command is judged: ANSWER, status and results fixed (R158, R162). -/
def Port.judged (c : HostCommand) (params : List Byte) (r : Reply) (p : Port) : Port :=
  { p with phase := .answer, count := 0, command := some c, params := params, answer := r.answer }

/-- Bytes are clocked after the judgement: answer bytes are given, and OVERRUN follows the last one (R158). -/
def Port.clock (n : Nat) (p : Port) : Port :=
  if p.phase = .answer ∧ p.answer.length ≤ p.count + n then
    { p with phase := .overrun, count := p.count + n - p.answer.length }
  else { p with count := p.count + n }

/-- The transaction has been judged: CSn can rise after a complete answer (R158, R163). -/
def PortPhase.judged : PortPhase → Bool
  | .answer => true
  | .overrun => true
  | _ => false

/-- CSn can rise before the answer is complete (R158, R164). -/
def PortPhase.unfinished : PortPhase → Bool
  | .command => true
  | .parameters => true
  | .answer => true
  | _ => false

/-- The transaction's command was answered OK. -/
def Port.answeredOk (p : Port) (c : HostCommand) : Bool := p.command == some c && p.answer.head? == some Status.ok.byte

/-- A command's judgement: the state it leaves and its reply, from the parameter bytes and the state as it stands (R162). -/
abbrev Judgement := List Byte → State → State × Reply

/-- The command is judged on the state as it stands, and its answer fixed (R162). -/
def State.takeJudgement (c : HostCommand) (params : List Byte) (judge : Judgement) (s : State) : State :=
  let (s', reply) := judge params s
  s'.onHpt fun t => { t with port := t.port.judged c params reply }

/-- A command code and the bytes clocked after it: with fewer parameter bytes than the command takes the port waits in
PARAMETERS; with all of them the command is judged, and any further byte clocks the answer (R158, R160, R162). -/
def State.runCommand (c : HostCommand) (params : List Byte) (judge : Judgement) (s : State) : State :=
  let need := paramsNeeded c params
  if params.length < need then s.onHpt fun t => { t with port := t.port.awaitParams c params }
  else
    (s.takeJudgement c (params.take need) judge).onHpt fun t => { t with port := t.port.clock (params.length - need) }

/-! ### Judgements -/

/-- CONFIGURE (R144, R145, R146). -/
def judgeConfigure : Judgement := fun params s =>
  if s.control.opState = .unconfigured then
    let r := readRecord params
    match firstFailingCheck s.control.ownAddr r with
    | some i => (s, ⟨.badConfig, [byteOf i]⟩)
    | none => (s.acceptConfig (configOf r), .bare .ok)
  else (s, .bare .wrongState)

/-- START (R148). -/
def judgeStart : Judgement := fun _ s =>
  if s.control.opState = .ready then (s.startRun, .bare .ok) else (s, .bare .wrongState)

/-- LEAVE is taken in RUNNING and DETACHED (R150). -/
def OpState.takesMessages : OpState → Bool
  | .running => true
  | .detached => true
  | _ => false

/-- LEAVE (R150). -/
def judgeLeave : Judgement := fun _ s =>
  if s.control.opState.takesMessages then (s.beginLeaving, .bare .ok) else (s, .bare .wrongState)

/-- RESET (R154). -/
def judgeReset : Judgement := fun _ s => (s.softReset, .bare .ok)

/-- The destination of a DATA SUBMIT: a station other than the own address (R93 check 4). -/
def submitDestination (own : Address) (dest : Byte) : Option Station :=
  if dest.toNat = own.toNat then none else stationOf dest.toNat

/-- Where a SUBMIT goes, or the status of the destination check that fails (R93 checks 4 and 5). -/
def State.submitTarget (s : State) (q : SubmitParams) : Except Status Target :=
  if q.group then .ok (.group q.target)
  else match submitDestination s.control.ownAddr q.target with
    | none => .error .badDest
    | some p => if (s.peer p).state = .absent ∨ (s.peer p).state = .lost then .error .noPeer else .ok (.data p)

/-- The checks of SUBMIT in order: a slot and a target, or the status of the first that fails (R93). -/
def State.submitCheck (s : State) (q : SubmitParams) : Except Status (Handle × Target) :=
  if s.control.opState.takesMessages = false then .error .wrongState
  else if Config.payloadMax < q.length.toNat then .error .badLength
  else if q.urgency = 0 ∨ 3 < q.urgency.toNat then .error .badUrgency
  else match s.submitTarget q with
    | .error e => .error e
    | .ok target =>
      match s.txs.lowestFree with
      | none => .error .full
      | some h => .ok (h, target)

/-- The message a SUBMIT carries (R94). -/
def SubmitParams.message (q : SubmitParams) (target : Target) : Message :=
  ⟨target, q.urgency.setWidth 2, q.cookie, q.payload⟩

/-- SUBMIT (R93, R94). -/
def judgeSubmit : Judgement := fun params s =>
  let q := readSubmit params
  match s.submitCheck q with
  | .error e => (s, .bare e)
  | .ok (h, target) => (s.onTxs (Txs.place h (q.message target)), ⟨.ok, [byteOf h.val]⟩)

/-- What CANCEL answers for a slot (R95). -/
def Txs.cancelStatus (h : Handle) (t : Txs) : Status :=
  match t.slot h with
  | .free => .noSuch
  | .complete _ _ _ => .noSuch
  | .sent _ _ _ => .inFlight
  | .queued _ => if t.stagedHandle = some h then .staged else .ok

/-- CANCEL (R95). -/
def judgeCancel : Judgement := fun params s =>
  match handleOf (byteAt params 0).toNat with
  | none => (s, .bare .noSuch)
  | some h =>
    if s.txs.cancelStatus h = .ok then (s.onTxs (Txs.complete .cancelled h), .bare .ok)
    else (s, .bare (s.txs.cancelStatus h))

/-- READ_MESSAGE (R83). -/
def judgeReadMessage : Judgement := fun _ s =>
  match s.mst.delivery with
  | [] => (s, .bare .empty)
  | r :: _ => (s, ⟨.ok, r.resultBytes⟩)

/-- READ_COMPLETION (R96). -/
def judgeReadCompletion : Judgement := fun _ s =>
  match s.txs.completions with
  | [] => (s, .bare .empty)
  | h :: _ => (s, ⟨.ok, completionBytes h (s.txs.slot h)⟩)

/-- READ_NOTICE (R179). -/
def judgeReadNotice : Judgement := fun _ s =>
  match s.hpt.notices with
  | [] => (s, .bare .empty)
  | n :: _ => (s, ⟨.ok, n.resultBytes⟩)

/-- READ_PEER (R47). -/
def judgeReadPeer : Judgement := fun params s =>
  match stationOf (byteAt params 0).toNat with
  | none => (s, .bare .noSuch)
  | some p => (s, ⟨.ok, (s.peer p).resultBytes⟩)

/-- The result of READ_STATUS, 14 bytes (R172). -/
def State.statusBytes (s : State) : List Byte :=
  [s.control.opState.code.setWidth 8, s.hmn.level.code.setWidth 8, byteOf s.hmn.score, s.control.epoch,
    s.control.ownAddr.setWidth 8, byteOf s.mst.stored, byteOf s.txs.completions.length, byteOf s.hpt.notices.length,
    byteOf s.txs.freeCount, byteOf s.uncommitted, byteOf s.hpt.drops, (bitOf s.hpt.port.aborted).setWidth 8]
  ++ bytesOf16 s.stamp

/-- READ_STATUS (R172). -/
def judgeReadStatus : Judgement := fun _ s => (s, ⟨.ok, s.statusBytes⟩)

/-- READ_COUNTERS: the snapshot is taken and held until the transaction ends (R183). -/
def judgeReadCounters : Judgement := fun _ s =>
  (s.onHpt fun t => { t with port := { t.port with snapshot := some t.counters } }, ⟨.ok, s.hpt.counters.resultBytes⟩)

/-- An unknown command code (R166). -/
def judgeUnknown : Judgement := fun _ s => (s, .bare .unknownCommand)

/-! ### The end of a transaction (R164, R165) -/

/-- The head notice leaves the queue (R165, R179). -/
def Hpt.removeNotice (t : Hpt) : Hpt := { t with notices := t.notices.tail }

/-- Each counter is reduced by its snapshot value (R184). -/
def Hpt.subtractSnapshot (t : Hpt) : Hpt :=
  match t.port.snapshot with
  | none => t
  | some snap => { t with counters := t.counters.reduceBy snap }

/-- The effect due at the end of a complete transaction (R165). -/
def State.endEffect (s : State) : State :=
  let p := s.hpt.port
  if p.answeredOk .readMessage then s.releaseMessage
  else if p.answeredOk .readCompletion then s.onTxs Txs.releaseHead
  else if p.answeredOk .readNotice then s.onHpt Hpt.removeNotice
  else if p.answeredOk .readCounters then s.onHpt Hpt.subtractSnapshot
  else if p.answeredOk .readStatus then s.onHpt fun t => { t with port := { t.port with aborted := false } }
  else s

/-- The port enters WAITING, with what the transaction held discarded (R158, R164, R183). -/
def State.closePort (aborted : Bool) (s : State) : State := s.onHpt fun t => { t with port := .between .waiting aborted }

/-- The bytes of the answer that are still due are clocked, which leaves OVERRUN (R158, R163). -/
def Port.clockRest (p : Port) : Port := p.clock (p.answer.length - p.count)

/-- The rest of the answer is clocked, and CSn rises after a complete transaction (R163, R165). -/
def State.endTransaction (s : State) : State :=
  let s' := (s.onHpt fun t => { t with port := t.port.clockRest }).endEffect
  s'.closePort s'.hpt.port.aborted

end Sys2Proof.Machine
end

