-- ==== Sys2Proof/Machine/ResetEvents.lean ====
section
/-! DEFINITION. How an event is taken, and the meanings of the reset and time rows: PIN_RESET, RSTN_RELEASE,
TIME_STAMP_TICK. -/

namespace Sys2Proof.Machine

/-- The outcome of a command. -/
abbrev Result := Host.Outcome State Fault Refusal

/-- An event is taken: where it can reach the part its effect is taken and TXS and IRQn follow; where it cannot, or while
RSTn is held low, nothing changes (R10, R11, R98, R141, R169; log entry 3). -/
def event (reaches : State → Bool) (effect : State → State) (s : State) : Result :=
  .next (if !s.inReset && reaches s then (effect s).finish else s)

/-- PIN_RESET: RSTn asserted, or power applied (R141). -/
def execPinReset (s : State) : Result := .next { State.held with pending := s.pending, inputs := s.inputs }

/-- The transaction state at RSTn's release: WAITING, or the wait for CSn to rise (R168). -/
def phaseAtRelease (csnLow : Bool) : PortPhase := if csnLow then .awaitingRise else .waiting

/-- RSTN_RELEASE: the rising edge of RSTn samples the straps (R142, R168). Without RSTn low there is no such edge. -/
def execRstnRelease (straps : Address) (csnLow : Bool) (s : State) : Result :=
  .next (if s.inReset then { State.initial straps (phaseAtRelease csnLow) with pending := s.pending, inputs := s.inputs }
    else s)

/-- One TU passes: the stamp advances and every running timer that is not held counts down (R46, R68, R142; log entry 5). -/
def State.tick (s : State) : State :=
  { s with
    stamp := s.stamp + 1
    control := { s.control with leaveLimit := tickTimer s.control.leaveLimit }
    pen := { s.pen with
      peers := mapPeers (PeerEntry.tick s.timersHeld) s.pen.peers
      helloTimer := tickTimer s.pen.helloTimer }
    hmn := { s.hmn with holdoff := tickTimer s.hmn.holdoff } }

/-- TIME_STAMP_TICK (R142). -/
def execTimeStampTick (s : State) : Result := event (fun _ => true) State.tick s

end Sys2Proof.Machine
end

