-- ==== Sys2Proof/Machine/TransactionEvents.lean ====
section
/-! DEFINITION. The meanings of the edges of CSn: TRANSACTION_START, TRANSACTION_END, TRANSACTION_CUT_SHORT,
CHIP_SELECT_RISE_AFTER_RESET. -/

namespace Sys2Proof.Machine

/-- The port stands in a transaction state. -/
def State.portIs (phase : PortPhase) (s : State) : Bool := s.hpt.port.phase == phase

/-- No bit of a byte has been sampled and SCLK is low: the port stands between two bytes (R157). -/
def Port.atByte (p : Port) : Bool := p.bits.isEmpty && p.held.isNone

/-- The port takes a command code byte (R158). -/
def State.takesCode (s : State) : Bool := s.portIs .command && s.hpt.port.atByte

/-- CSn falls (R158, R159). -/
def State.startTransaction (s : State) : State := s.onHpt fun t => { t with port := t.port.begin s.summary }

/-- TRANSACTION_START (R159). -/
def execTransactionStart (s : State) : Result := event (State.portIs .waiting) State.startTransaction s

/-- TRANSACTION_END: the rest of the answer has been clocked and CSn rises (R163, R165). -/
def execTransactionEnd (s : State) : Result := event (fun s => s.hpt.port.phase.judged) State.endTransaction s

/-- TRANSACTION_CUT_SHORT (R164). -/
def execTransactionCutShort (s : State) : Result :=
  event (fun s => s.hpt.port.phase.unfinished) (State.closePort true) s

/-- CHIP_SELECT_RISE_AFTER_RESET (R168). -/
def execChipSelectRiseAfterReset (s : State) : Result :=
  event (State.portIs .awaitingRise) (fun s => s.closePort s.hpt.port.aborted) s

end Sys2Proof.Machine
end

