-- ==== Sys2Proof/Machine/HostCommands.lean ====
section
/-! DEFINITION. The meanings of the host commands. A command code reaches the port in COMMAND only: with CSn high nothing
is clocked, and a byte sent after the parameters is no new command (R157, R158). Its row stands for whole bytes, from the
first bit of the code on (log entries 9 and 26). -/

namespace Sys2Proof.Machine

/-- A host command is taken. -/
def hostCommand (c : HostCommand) (params : List Byte) (judge : Judgement) (s : State) : Result :=
  event State.takesCode (State.runCommand c params judge) s

/-- CONFIGURE (R144). -/
def execConfigure (params : List Byte) (s : State) : Result := hostCommand .configure params judgeConfigure s

/-- START (R148). -/
def execStart (s : State) : Result := hostCommand .start [] judgeStart s

/-- LEAVE (R150). -/
def execLeave (s : State) : Result := hostCommand .leave [] judgeLeave s

/-- RESET (R154). -/
def execReset (s : State) : Result := hostCommand .reset [] judgeReset s

/-- SUBMIT (R94). -/
def execSubmit (params : List Byte) (s : State) : Result := hostCommand .submit params judgeSubmit s

/-- CANCEL (R95). -/
def execCancel (handle : Byte) (s : State) : Result := hostCommand .cancel [handle] judgeCancel s

/-- READ_MESSAGE (R83). -/
def execReadMessage (s : State) : Result := hostCommand .readMessage [] judgeReadMessage s

/-- READ_COMPLETION (R96). -/
def execReadCompletion (s : State) : Result := hostCommand .readCompletion [] judgeReadCompletion s

/-- READ_NOTICE (R179). -/
def execReadNotice (s : State) : Result := hostCommand .readNotice [] judgeReadNotice s

/-- READ_PEER (R47). -/
def execReadPeer (address : Byte) (s : State) : Result := hostCommand .readPeer [address] judgeReadPeer s

/-- READ_STATUS (R172). -/
def execReadStatus (s : State) : Result := hostCommand .readStatus [] judgeReadStatus s

/-- READ_COUNTERS (R183). -/
def execReadCounters (s : State) : Result := hostCommand .readCounters [] judgeReadCounters s

/-- UNKNOWN_COMMAND: a code that names no command (R166). A code that names one is not this event. -/
def execUnknownCommand (code : Byte) (s : State) : Result :=
  event (fun s => s.takesCode && !isCommandCode code) (State.runCommand .unknown [] judgeUnknown) s

end Sys2Proof.Machine
end

