-- ==== Sys2Proof/Machine/LineEvents.lean ====
section
/-! DEFINITION. The meanings of the line events: LINE_IDLE, CONTENTION_STARTED, RECEPTION_START, SENT_OK, LOST_CONTENTION,
READBACK_FAULT, CHECK_ERROR, GOOD_FRAME (chapter The Peer Line). A disabled LIU reports no event of any kind (R11), and an
event with no row for the line state does not reach it (R10). Each row stands for the bit times up to its event: the elements
before it have matched, or have been sampled as the line carried them (log entry 6). -/

namespace Sys2Proof.Machine

/-- The enabled LIU stands in a line state. -/
def State.lineIs (l : LineState) (s : State) : Bool := s.enabled && s.liu.line == l

/-- The enabled LIU is sending a staged frame: in CONTENDING or SENDING. -/
def State.isTransmitting (s : State) : Bool :=
  (s.lineIs .contending || s.lineIs .sending) && s.liu.staging.isSome

/-- LINE_IDLE: the idle count reaches 11 in RECOVERING (R3, R10). -/
def execLineIdle (s : State) : Result := event (State.lineIs .recovering) (State.onLiu Liu.becomeIdle) s

/-- A presented candidate can be staged (R6). -/
def State.canStage (s : State) : Bool := s.lineIdle && s.txs.staged.isNone && (s.txs.presented.bind s.buildFrame).isSome

/-- CONTENTION_STARTED (R6, R105). -/
def execContentionStarted (s : State) : Result := event State.canStage State.stage s

/-- A dominant sample in IDLE opens another station's frame (R6, R10, R17). -/
def Liu.beginReception (l : Liu) : Liu := { l with line := .receiving, idleCount := 0, assembly := .empty }

/-- RECEPTION_START (R6). -/
def execReceptionStart (s : State) : Result := event State.lineIdle (State.onLiu Liu.beginReception) s

/-- The elements of the staged frame; none while the staging buffer is empty (R4, R12). -/
def Liu.elements (l : Liu) : List Bool := (l.staging.map fun f => frameElements f.contention f.bytes).getD []

/-- The elements up to element `n` have been read back as sent: after the seventh contention bit the LIU is in SENDING, and
it drives element `n` (R1, R7, R10). -/
def Liu.matchTo (n : Nat) (l : Liu) : Liu :=
  { l with
    line := if contendingElements ≤ n then .sending else l.line
    matched := n
    ltxLow := l.elements[n]? == some false }

/-- The LIU at SENT_OK: every element before the last has matched, so it leaves SENDING, for IDLE, with the line idle and the
staging buffer empty (R10, R12, R22). -/
def Liu.sentOk (l : Liu) : Liu :=
  { (l.matchTo (l.elements.length - 1)).becomeIdle with staging := none, matched := 0 }

/-- SENT_OK of the staged frame, in either order of HMN's evaluation and of TXS's next choice with its staging (R22, R109,
R131). -/
def State.sentOk (stagingFirst : Bool) (s : State) : State :=
  let s1 := (s.onLiu Liu.sentOk).count .framesSent
  if stagingFirst then (s1.takeSentOk.chooseAndStage).healthReport .sentOk
  else (s1.healthReport .sentOk).takeSentOk

/-- SENT_OK (R22). -/
def execSentOk (stagingFirst : Bool) (s : State) : Result := event State.isTransmitting (State.sentOk stagingFirst) s

/-- The contention bits a losing contender keeps: those before the lost bit, equal to its own, and the lost bit as a
dominant 0 (R7). -/
def keptBits (contention : BitVec 7) (bit : Fin 7) : List Bool :=
  (contentionBits contention).take (6 - bit.val) ++ [false]

/-- The element that carries a contention bit: bit 6 is element 1, after the start element (R4, R5). -/
def contentionElement (bit : Fin 7) : Nat := 7 - bit.val

/-- Contention can be lost at a bit that the staged frame sends recessive, if it has not yet been read back (R7). -/
def State.canLoseAt (bit : Fin 7) (s : State) : Bool :=
  s.lineIs .contending && decide (s.liu.matched ≤ contentionElement bit)
    && s.liu.staging.any fun f => f.contention.getLsbD bit.val

/-- The LIU at a lost contention: RECEIVING, the bits seen kept, the staging buffer empty (R7). -/
def Liu.loseContention (bit : Fin 7) (l : Liu) : Liu :=
  { l with
    line := .receiving
    idleCount := 0
    assembly := ⟨(l.staging.map fun f => keptBits f.contention bit).getD [], [], []⟩
    staging := none
    matched := 0
    ltxLow := false }

/-- A lost contention is counted and reported to TXS, and not to HMN (R7). -/
def State.loseContention (bit : Fin 7) (s : State) : State :=
  ((s.onLiu (Liu.loseContention bit)).count .contentionLosses).takeFailure

/-- LOST_CONTENTION at contention bit `bit`, bit 6 being the first (R7). -/
def execLostContention (bit : Fin 7) (s : State) : Result :=
  event (State.canLoseAt bit) (State.loseContention bit) s

/-- A readback fault can fall at an element of the staged frame that has not yet been read back; SENDING has left the
contention field behind (R7, R8). -/
def State.canFault (element : Nat) (s : State) : Bool :=
  s.isTransmitting && decide (s.liu.matched ≤ element)
    && (s.liu.line == .contending || decide (contendingElements ≤ element)) && canFaultAt s.liu.elements element

/-- The LIU at a readback fault at an element: those before it have matched; the line is released, RECOVERING entered, the
staging buffer emptied (R7, R8, R10). -/
def Liu.fault (element : Nat) (l : Liu) : Liu := { (l.matchTo element).recover with staging := none, matched := 0 }

/-- A readback fault is counted, and reported to TXS as ABORTED and to HMN, in either order (R8, R134). -/
def State.readbackFault (element : Nat) (scoreFirst : Bool) (s : State) : State :=
  let s1 := (s.onLiu (Liu.fault element)).count .readbackFaults
  if scoreFirst then (s1.healthReport .readbackFault).takeFailure
  else s1.takeFailure.healthReport .readbackFault

/-- READBACK_FAULT at an element of the frame, element 0 being its start element (R8). -/
def execReadbackFault (element : Nat) (scoreFirst : Bool) (s : State) : Result :=
  event (State.canFault element) (State.readbackFault element scoreFirst) s

/-- The LIU at a check error: the assembly discarded, RECOVERING (R10, R18). -/
def Liu.discardAssembly (l : Liu) : Liu := { l.recover with assembly := .empty }

/-- A check error is counted and reported to HMN (R18). -/
def State.checkError (s : State) : State :=
  ((s.onLiu Liu.discardAssembly).count .checkErrors).healthReport .checkError

/-- CHECK_ERROR (R18). -/
def execCheckError (s : State) : Result := event (State.lineIs .receiving) State.checkError s

/-- The contention bits as the receiver holds them: those kept from a lost contention, then those off the line (R7, R17). -/
def assembledContention (kept : List Bool) (contention : BitVec 7) : BitVec 7 :=
  contentionOfBits (kept ++ (contentionBits contention).drop kept.length)

/-- A byte off the line whose first elements were sampled before: those stand, and the byte gives the rest (R17). -/
def overlay (tail : List Bool) (b : Byte) : Byte := byteOfBits ((tail.drop 1).take 8 ++ (dataBits b).drop (tail.length - 1))

/-- The byte phase as the receiver holds it: the bytes stored and the elements sampled, then the bytes off the line (R17). -/
def assembledBytes (a : Assembly) (bytes : List Byte) : List Byte :=
  a.bytes ++
    match bytes.drop a.bytes.length with
    | [] => []
    | b :: rest => overlay a.tail b :: rest

/-- The LIU at the completion of a good frame: IDLE, the line idle, the frame in the assembly buffer (R10, R17, R19; log
entry 8). -/
def Liu.completeFrame (contention : BitVec 7) (bytes : List Byte) (l : Liu) : Liu :=
  { l.becomeIdle with assembly := ⟨contentionBits contention, bytes, []⟩ }

/-- The reports of an address clash: in RUNNING the notice, then the report to HMN (R20). -/
def State.reportClash (s : State) : State :=
  if s.isRunning then (s.raise .addressClash).healthReport .addressClash else s

/-- An address clash: counted in CHECK_ERRORS and reported, with the line idle in the order given (R20, R98, R131; log
entry 11). DESIGN CHOICE, log entry 25: a clash that takes the score to 192 keeps that order, so with the line idle first a
frame is staged and the part then enters DETACHED, where R134 says that no frame is staged at a clash. -/
def State.addressClash (order : FrameOrder) (s : State) : State :=
  let s1 := s.count .checkErrors
  match order with
  | .recordFirst => s1.reportClash
  | .idleAfterScore => s1.reportClash.chooseAndStage
  | .idleBeforeScore => s1.chooseAndStage.reportClash

/-- A frame record at FCL: in RUNNING it is routed, but for one whose source reads 31; elsewhere it is taken no further
(R19, R21). -/
def State.takeRecord (source : Address) (f : FrameBody) (s : State) : State :=
  if s.isRunning then
    match stationOf source.toNat with
    | none => s
    | some p => s.routeFrame p f
  else s

/-- A good frame from another station: counted, reported to HMN, and its record taken at FCL, with the line idle in the
order given (R19, R98, R131). -/
def State.goodFrame (order : FrameOrder) (source : Address) (f : FrameBody) (s : State) : State :=
  let s1 := s.count .framesReceived
  match order with
  | .recordFirst => (s1.healthReport .goodFrame).takeRecord source f
  | .idleAfterScore => ((s1.healthReport .goodFrame).chooseAndStage).takeRecord source f
  | .idleBeforeScore => ((s1.chooseAndStage).healthReport .goodFrame).takeRecord source f

/-- The frame under reception ends with the bytes the line carried: a good frame from another station (R19), an address
clash (R20), or, where a check of R18 fails, a check error (log entry 7). -/
def State.receive (order : FrameOrder) (contention : BitVec 7) (bytes : List Byte) (s : State) : State :=
  let c := assembledContention s.liu.assembly.bits contention
  let phase := assembledBytes s.liu.assembly bytes
  match receiveFrame c phase with
  | none => s.checkError
  | some (source, f) =>
    let s1 := s.onLiu (Liu.completeFrame c phase)
    if source = s.control.ownAddr then s1.addressClash order else s1.goodFrame order source f

/-- GOOD_FRAME (R19). -/
def execGoodFrame (order : FrameOrder) (contention : BitVec 7) (bytes : List Byte) (s : State) : Result :=
  event (State.lineIs .receiving) (State.receive order contention bytes) s

end Sys2Proof.Machine
end

