-- ==== Sys2Proof/Machine/TimerEvents.lean ====
section
/-! DEFINITION. The meanings of the timer expiries. A timer expires only while it runs, is not held, and is in its last TU
(R46, R68, R149; log entry 5). -/

namespace Sys2Proof.Machine

/-- The join timer of a SYNCING entry may expire; it is held in GUARDED (R42, R46). -/
def State.joinMayExpire (p : Station) (s : State) : Bool :=
  !s.timersHeld && (s.peer p).state == .syncing && ranOut (s.peer p).joinTimer

/-- The join timer expires: a retry, or the loss of the peer (R42). -/
def State.joinExpiry (p : Station) (s : State) : State :=
  if (s.peer p).retryCount < s.cfg.maxRetries then
    s.onPeer p fun e =>
      { e with retryCount := e.retryCount + 1, openPending := true, joinTimer := s.cfg.ackTimeout }
  else s.losePeer p .join

/-- JOIN_TIMER_EXPIRY (R42). -/
def execJoinTimerExpiry (p : Station) (s : State) : Result := event (State.joinMayExpire p) (State.joinExpiry p) s

/-- The silence timer of a SYNCING or LINKED entry may expire, in both levels (R43). -/
def State.silenceMayExpire (p : Station) (s : State) : Bool := (s.peer p).isLive && ranOut (s.peer p).silenceTimer

/-- SILENCE_TIMER_EXPIRY (R43). -/
def execSilenceTimerExpiry (p : Station) (s : State) : Result :=
  event (State.silenceMayExpire p) (State.losePeer p .silence) s

/-- The ack timer of a LINKED entry may expire; it is held in GUARDED (R63, R68). -/
def State.ackMayExpire (p : Station) (s : State) : Bool :=
  !s.timersHeld && (s.peer p).state == .linked && ranOut (s.peer p).ackTimer

/-- The ack timer expires: every SENT slot is marked for resend, or the peer is lost (R63, R64). -/
def State.ackExpiry (p : Station) (s : State) : State :=
  if (s.peer p).retryCount < s.cfg.maxRetries then
    (s.onTxs (Txs.markSent p)).onPeer p fun e => { e with retryCount := e.retryCount + 1, ackTimer := s.cfg.ackTimeout }
  else s.losePeer p .retries

/-- ACK_TIMER_EXPIRY (R63). -/
def execAckTimerExpiry (p : Station) (s : State) : Result := event (State.ackMayExpire p) (State.ackExpiry p) s

/-- The ack-delay timer of an entry may expire, in SYNCING and LINKED and in both levels (R59). -/
def State.ackDelayMayExpire (p : Station) (s : State) : Bool := (s.peer p).isLive && ranOut (s.peer p).ackDelayTimer

/-- The ack-delay timer expires: creditDue is set and the timer is stopped (R59). -/
def State.ackDelayExpiry (p : Station) (s : State) : State :=
  s.onPeer p fun e => { e with creditDue := true, ackDelayTimer := 0 }

/-- ACK_DELAY_EXPIRY (R59). -/
def execAckDelayExpiry (p : Station) (s : State) : Result := event (State.ackDelayMayExpire p) (State.ackDelayExpiry p) s

/-- The hello timer may expire in RUNNING (R35). -/
def State.helloMayExpire (s : State) : Bool := s.isRunning && ranOut s.pen.helloTimer

/-- HELLO_TIMER_EXPIRY (R35). -/
def execHelloTimerExpiry (s : State) : Result := event State.helloMayExpire State.startHello s

/-- The holdoff timer may expire in DETACHED (R136, R137). -/
def State.holdoffMayExpire (s : State) : Bool := s.control.opState == .detached && ranOut s.hmn.holdoff

/-- HOLDOFF_EXPIRY (R137). -/
def execHoldoffExpiry (s : State) : Result := event State.holdoffMayExpire State.rejoin s

/-- The leave limit may expire in LEAVING (R152). -/
def State.leaveLimitMayExpire (s : State) : Bool := s.control.opState == .leaving && ranOut s.control.leaveLimit

/-- LEAVE_LIMIT_EXPIRY (R152, R153). -/
def execLeaveLimitExpiry (s : State) : Result := event State.leaveLimitMayExpire (State.endLeaving true) s

end Sys2Proof.Machine
end

