-- ==== Sys2Proof/Machine/Dispatch.lean ====
section
/-! DEFINITION. What each command does to everything but the queue: one arm per constructor of `Instr`. -/

namespace Sys2Proof.Machine

def exec (i : Instr) (s : State) : Host.Outcome State Fault Refusal :=
  match i with
  | .pinReset => Sys2Proof.Machine.execPinReset s
  | .rstnRelease straps csnLow => Sys2Proof.Machine.execRstnRelease straps csnLow s
  | .timeStampTick => Sys2Proof.Machine.execTimeStampTick s
  | .transactionStart => Sys2Proof.Machine.execTransactionStart s
  | .transactionEnd => Sys2Proof.Machine.execTransactionEnd s
  | .transactionCutShort => Sys2Proof.Machine.execTransactionCutShort s
  | .configure params => Sys2Proof.Machine.execConfigure params s
  | .start => Sys2Proof.Machine.execStart s
  | .leave => Sys2Proof.Machine.execLeave s
  | .reset => Sys2Proof.Machine.execReset s
  | .submit params => Sys2Proof.Machine.execSubmit params s
  | .cancel handle => Sys2Proof.Machine.execCancel handle s
  | .readMessage => Sys2Proof.Machine.execReadMessage s
  | .readCompletion => Sys2Proof.Machine.execReadCompletion s
  | .readNotice => Sys2Proof.Machine.execReadNotice s
  | .readPeer address => Sys2Proof.Machine.execReadPeer address s
  | .readStatus => Sys2Proof.Machine.execReadStatus s
  | .readCounters => Sys2Proof.Machine.execReadCounters s
  | .unknownCommand code => Sys2Proof.Machine.execUnknownCommand code s
  | .lineIdle => Sys2Proof.Machine.execLineIdle s
  | .contentionStarted => Sys2Proof.Machine.execContentionStarted s
  | .sentOk stagingFirst => Sys2Proof.Machine.execSentOk stagingFirst s
  | .lostContention bit => Sys2Proof.Machine.execLostContention bit s
  | .readbackFault element scoreFirst => Sys2Proof.Machine.execReadbackFault element scoreFirst s
  | .checkError => Sys2Proof.Machine.execCheckError s
  | .goodFrame order contention bytes => Sys2Proof.Machine.execGoodFrame order contention bytes s
  | .joinTimerExpiry p => Sys2Proof.Machine.execJoinTimerExpiry p s
  | .silenceTimerExpiry p => Sys2Proof.Machine.execSilenceTimerExpiry p s
  | .ackTimerExpiry p => Sys2Proof.Machine.execAckTimerExpiry p s
  | .ackDelayExpiry p => Sys2Proof.Machine.execAckDelayExpiry p s
  | .helloTimerExpiry => Sys2Proof.Machine.execHelloTimerExpiry s
  | .holdoffExpiry => Sys2Proof.Machine.execHoldoffExpiry s
  | .leaveLimitExpiry => Sys2Proof.Machine.execLeaveLimitExpiry s
  | .receptionStart => Sys2Proof.Machine.execReceptionStart s
  | .chipSelectRiseAfterReset => Sys2Proof.Machine.execChipSelectRiseAfterReset s

end Sys2Proof.Machine
end

