-- ==== Sys2Proof/Machine/Inputs.lean ====
section
/-! DEFINITION. What the pins bring between two commands: one bit time of the line (R1, R3, R7, R8, R10, R17, R18) and one edge
of SCLK or one byte of the SPI port (R157, R158, R160). A bit time or a byte that completes an event of the table has that
event's effect. -/

namespace Sys2Proof.Machine

/-! ### One bit time -/

/-- The idle count after a sample (R3). -/
def countSample (recessive : Bool) (idleCount : Nat) : Nat :=
  if recessive then min Config.idleSamples (idleCount + 1) else 0

/-- A sample advances the idle count or clears it (R3). -/
def Liu.countSample (recessive : Bool) (l : Liu) : Liu :=
  { l with idleCount := Machine.countSample recessive l.idleCount }

/-- What one element does to a frame under reception (R17, R18). -/
inductive Reception where
  | continues (a : Assembly)
  | checkError
  | complete
  deriving DecidableEq, Repr

/-- One element of the byte phase: the start element, a data bit, or the stop element at which the byte is stored and
checked (R4, R17, R18). -/
def Assembly.takeByteElement (recessive : Bool) (a : Assembly) : Reception :=
  if a.tail = [] then
    if recessive then .checkError else .continues { a with tail := [false] }
  else if a.tail.length < 9 then .continues { a with tail := a.tail ++ [recessive] }
  else
    let bytes := a.bytes ++ [byteOfBits (a.tail.drop 1)]
    if recessive && storedBytesPass (contentionOfBits a.bits) bytes then .continues { a with bytes := bytes, tail := [] }
    else .checkError

/-- One bit time of the end marker: the eleventh recessive one completes the frame (R17, R18). -/
def Assembly.takeMarkerElement (recessive : Bool) (a : Assembly) : Reception :=
  if recessive then
    if a.tail.length < 10 then .continues { a with tail := a.tail ++ [true] } else .complete
  else .checkError

/-- One element of a frame under reception: contention bits, then the byte phase, then the end marker (R17, R18). -/
def Assembly.take (recessive : Bool) (a : Assembly) : Reception :=
  if a.bits.length < 7 then .continues { a with bits := a.bits ++ [recessive] }
  else if phaseComplete a.bytes then a.takeMarkerElement recessive
  else a.takeByteElement recessive

/-- RECEIVING: the element is taken into the assembly buffer, and may end the frame (R10, R17, R18, R19). -/
def State.sampleReceiving (recessive : Bool) (order : FrameOrder) (s : State) : State :=
  match s.liu.assembly.take recessive with
  | .continues a => s.onLiu fun l => { l.countSample recessive with assembly := a }
  | .checkError => s.checkError
  | .complete => s.receive order (contentionOfBits s.liu.assembly.bits) s.liu.assembly.bytes

/-- CONTENDING and SENDING: the element driven is compared with the level read. A match goes on to the next element, and at
the last one is SENT_OK; a contention bit sent recessive and read dominant is lost; any other difference is a readback fault
(R7, R8, R10, R22). -/
def State.sampleReadback (recessive : Bool) (order : FrameOrder) (s : State) : State :=
  match s.liu.elements[s.liu.matched]? with
  | none => s
  | some sent =>
    if recessive = sent then
      if s.liu.matched + 1 < s.liu.elements.length then
        s.onLiu fun l => (l.matchTo (l.matched + 1)).countSample recessive
      else s.sentOk !order.scoreFirst
    else if s.liu.line = .contending ∧ sent = true then s.loseContention (Fin.ofNat 7 (7 - s.liu.matched))
    else s.readbackFault s.liu.matched order.scoreFirst

/-- IDLE: a presented candidate is staged at the bit boundary and its start element read back; with none, a dominant sample
opens another station's frame (R3, R6, R10). -/
def State.sampleIdle (recessive : Bool) (order : FrameOrder) (s : State) : State :=
  if s.canStage then s.stage.sampleReadback recessive order
  else if recessive then s.onLiu (Liu.countSample recessive)
  else s.onLiu Liu.beginReception

/-- RECOVERING: the idle count follows the samples, and at 11 the line is idle (R3, R10). -/
def State.sampleRecovering (recessive : Bool) (s : State) : State :=
  if countSample recessive s.liu.idleCount = Config.idleSamples then s.onLiu Liu.becomeIdle
  else s.onLiu (Liu.countSample recessive)

/-- One bit time of the enabled LIU, by its line state (R10). -/
def State.bitTime (recessive : Bool) (order : FrameOrder) (s : State) : State :=
  match s.liu.line with
  | .idle => s.sampleIdle recessive order
  | .contending => s.sampleReadback recessive order
  | .sending => s.sampleReadback recessive order
  | .receiving => s.sampleReceiving recessive order
  | .recovering => s.sampleRecovering recessive

/-! ### One byte of the port -/

/-- The judgement of each command (R162). -/
def judgementOf : HostCommand → Judgement
  | .configure => judgeConfigure
  | .start => judgeStart
  | .leave => judgeLeave
  | .reset => judgeReset
  | .submit => judgeSubmit
  | .cancel => judgeCancel
  | .readMessage => judgeReadMessage
  | .readCompletion => judgeReadCompletion
  | .readNotice => judgeReadNotice
  | .readPeer => judgeReadPeer
  | .readStatus => judgeReadStatus
  | .readCounters => judgeReadCounters
  | .unknown => judgeUnknown

/-- The bytes that came are the command's so far: it waits for more, or is judged (R158, R160). -/
def State.takeParams (c : HostCommand) (params : List Byte) (s : State) : State :=
  if params.length < paramsNeeded c params then s.onHpt fun t => { t with port := t.port.awaitParams c params }
  else s.takeJudgement c params (judgementOf c)

/-- One byte is complete, with CSn low: a command code, a parameter byte, or a byte of the answer or of OVERRUN, whose MOSI is
ignored (R157, R158). With CSn high, or before it has risen after a reset, bytes are ignored (R157, R168). -/
def State.clockByte (byte : Byte) (s : State) : State :=
  match s.hpt.port.phase with
  | .command => s.takeParams (commandOf byte) []
  | .parameters =>
    match s.hpt.port.command with
    | none => s
    | some c => s.takeParams c (s.hpt.port.params ++ [byte])
  | .answer => s.onHpt fun t => { t with port := t.port.clock 1 }
  | .overrun => s.onHpt fun t => { t with port := t.port.clock 1 }
  | .waiting => s
  | .awaitingRise => s

/-- A transaction runs: CSn has fallen and not risen since (R157, R158). -/
def PortPhase.selected : PortPhase → Bool
  | .command => true
  | .parameters => true
  | .answer => true
  | .overrun => true
  | .waiting => false
  | .awaitingRise => false

/-! ### The edges of SCLK -/

/-- The byte that the port gives for the one it takes: the summary byte, 0x00 for a parameter, a byte of the answer, 0x00 in
overrun (R157, R159). Outside a transaction it gives none, and this is 0. -/
def Port.outByte (p : Port) : Byte :=
  match p.phase with
  | .command => p.summary
  | .answer => p.answer.getD p.count 0
  | .parameters => 0
  | .overrun => 0
  | .waiting => 0
  | .awaitingRise => 0

/-- The level of MISO in a transaction: the bit of the byte being given that comes next, most significant first, changed only
after a falling edge of SCLK (R157). -/
def Port.outBit (p : Port) : Bool :=
  match p.held with
  | some level => level
  | none => p.outByte.getLsbD (7 - p.bits.length)

/-- The level of MISO, none for high impedance (R157, R168). While CSn has not risen after a reset the spec does not say (log
entry 23). -/
def State.miso (s : State) : Option Bool :=
  if s.inReset then none
  else match s.hpt.port.phase with
    | .waiting => none
    | .awaitingRise => Config.misoAwaitingRise
    | .command => some s.hpt.port.outBit
    | .parameters => some s.hpt.port.outBit
    | .answer => some s.hpt.port.outBit
    | .overrun => some s.hpt.port.outBit

/-- The byte that bits in line order spell, most significant first (R157). -/
def byteOfLine (bits : List Bool) : Byte := bits.foldl (fun b bit => (b <<< 1) ||| (if bit then 1 else 0)) 0

/-- The bits of the incomplete byte (R157). -/
def State.withBits (bits : List Bool) (s : State) : State :=
  s.onHpt fun t => { t with port := { t.port with bits := bits } }

/-- The level MISO keeps while SCLK is high (R157). -/
def State.withHeld (held : Option Bool) (s : State) : State :=
  s.onHpt fun t => { t with port := { t.port with held := held } }

/-- SCLK rises: MOSI is sampled and MISO kept; at the eighth rising edge since the last byte the byte is complete (R157). -/
def State.clockRise (mosi : Bool) (s : State) : State :=
  let bits := s.hpt.port.bits ++ [mosi]
  (if bits.length < 8 then s.withBits bits else (s.withBits []).clockByte (byteOfLine bits)).withHeld
    (some s.hpt.port.outBit)

/-- SCLK falls: MISO changes to the next bit (R157). -/
def State.clockFall (s : State) : State := s.withHeld none

/-- A rising edge of SCLK reaches a selected port while SCLK is low (R157). -/
def Port.takesRise (p : Port) : Bool := p.phase.selected && p.held.isNone

/-- A falling edge of SCLK reaches a selected port while SCLK is high (R157). -/
def Port.takesFall (p : Port) : Bool := p.phase.selected && p.held.isSome

/-- A whole byte reaches a selected port between two bytes (R157; log entry 26). -/
def Port.takesByte (p : Port) : Bool := p.phase.selected && p.atByte

/-- What the pins bring is taken: a bit time by the enabled LIU (R11), an edge of SCLK or a byte by a port that is
selected (R157). -/
def takeInput (i : Input) (s : State) : Result :=
  match i with
  | .bitTime recessive order => event State.enabled (State.bitTime recessive order) s
  | .sclkRise mosi => event (fun s => s.hpt.port.takesRise) (State.clockRise mosi) s
  | .sclkFall => event (fun s => s.hpt.port.takesFall) State.clockFall s
  | .mosiByte byte => event (fun s => s.hpt.port.takesByte) (State.clockByte byte) s

end Sys2Proof.Machine
end

