-- ==== Sys2Proof/Machine/Step.lean ====
section
/-! DEFINITION. One step: the command at the front of the queue is taken; on an empty queue, what the pins bring next, and
with nothing there the part idles (log entry 4). -/

namespace Sys2Proof.Machine

/-- Take the command at the front of the queue and run `exec` on it with the queue's rest; with no command waiting, take the
first bit time or byte that the pins bring. -/
def step (s : State) : Host.Outcome State Fault Refusal :=
  match s.pending with
  | c :: rest => exec c { s with pending := rest }
  | [] =>
    match s.inputs with
    | [] => .next s
    | i :: rest => takeInput i { s with inputs := rest }

/-- The command that a word spells, put at the front of the queue; no word spells one (`decodeTableWord`). -/
def State.withFetchWord (s : State) (nbits w : Nat) : State :=
  match decodeTableWord nbits w with
  | none => s
  | some c => { s with pending := c :: s.pending }

end Sys2Proof.Machine
end

