-- ==== Sys2Proof/Safety.lean ====
section
/-! DEFINITION. What counts as a lawful state of the part, law by law as the spec names them, and the terms in which the
statements say what a command leaves. -/

namespace Sys2Proof.Machine

/-! ### What a command leaves -/

/-- The state without the two outputs that follow every event: the presented candidate (R98) and IRQn (R169). Their own
laws are `PresentedLaw` and `IrqLaw`. -/
def State.withoutOutputs (s : State) : State :=
  { s with txs := { s.txs with presented := none }, hpt := { s.hpt with irqnLow := false } }

/-- The command completes at `s`, and the state it leaves is `u`, but for the two outputs that follow every event. -/
def Leaves (c : Instr) (s u : State) : Prop := ∃ t, exec c s = .next t ∧ t.withoutOutputs = u.withoutOutputs

/-- A bit time or a byte is taken at `s`, and the state it leaves is `u`, but for the two outputs that follow every event. -/
def Takes (i : Input) (s u : State) : Prop := ∃ t, takeInput i s = .next t ∧ t.withoutOutputs = u.withoutOutputs

/-- A bit time or a byte does what a command does: it leaves whatever the command would leave. -/
def TakesAs (i : Input) (s : State) (c : Instr) : Prop := ∃ t, takeInput i s = .next t ∧ exec c s = .next t

/-- The part is out of reset and its port takes a command code byte, of which no bit has been sampled (R157, R158). -/
def State.TakesCommand (s : State) : Prop :=
  s.inReset = false ∧ s.hpt.port.phase = .command ∧ s.hpt.port.bits = [] ∧ s.hpt.port.held = none

/-- The port with the answer of a judged command: its status byte followed by its result bytes (R158, R162). -/
def State.answered (c : HostCommand) (params : List Byte) (status : Status) (results : List Byte) (s : State) : State :=
  { s with
    hpt := { s.hpt with
      port := { s.hpt.port with
        phase := .answer, count := 0, command := some c, params := params, answer := status.byte :: results } } }

/-- The part is out of reset, and a transaction has been judged as a given command with a given answer (R158). -/
def State.Answering (c : HostCommand) (answer : List Byte) (s : State) : Prop :=
  s.inReset = false ∧ s.hpt.port.phase.judged = true ∧ s.hpt.port.command = some c ∧ s.hpt.port.answer = answer

/-- The port back in WAITING, with the aborted flag as it stands (R165). -/
def State.portClosed (s : State) : State :=
  { s with hpt := { s.hpt with port := .between .waiting s.hpt.port.aborted } }

/-- The part is out of reset and its LIU stands in a line state (R10, R11). -/
def State.OnLine (l : LineState) (s : State) : Prop := s.inReset = false ∧ s.enabled = true ∧ s.liu.line = l

/-- The state in which FCL takes the record of a good frame: the LIU idle with the frame in its assembly buffer, the frame
counted and reported to HMN, and the line idle taken or not, in the order given (R19, R98, R131). -/
def State.beforeRecord (order : FrameOrder) (contention : BitVec 7) (bytes : List Byte) (s : State) : State :=
  let c := assembledContention s.liu.assembly.bits contention
  let s1 := (s.onLiu (Liu.completeFrame c (assembledBytes s.liu.assembly bytes))).count .framesReceived
  match order with
  | .recordFirst => s1.healthReport .goodFrame
  | .idleAfterScore => (s1.healthReport .goodFrame).chooseAndStage
  | .idleBeforeScore => s1.chooseAndStage.healthReport .goodFrame

/-- A good frame from peer `p` completes at `s`, and FCL takes its record in the RUNNING state `u` (R19, R21). -/
def Arrives (order : FrameOrder) (contention : BitVec 7) (bytes : List Byte) (p : Station) (f : FrameBody) (s u : State) :
    Prop :=
  s.OnLine .receiving
    ∧ receiveFrame (assembledContention s.liu.assembly.bits contention) (assembledBytes s.liu.assembly bytes)
        = some (stationAddress p, f)
    ∧ stationAddress p ≠ s.control.ownAddr ∧ u = s.beforeRecord order contention bytes ∧ u.isRunning = true

/-- A frame of this station is on the line, staged as a given record (R22, R105). -/
def State.Sending (r : StagingRecord) (s : State) : Prop :=
  s.inReset = false ∧ s.isTransmitting = true ∧ s.txs.staged = some r

/-- The state in which TXS takes SENT_OK: the LIU idle with its staging buffer empty and FRAMES_SENT counted (R22). -/
def State.sentCounted (s : State) : State := (s.onLiu Liu.sentOk).count .framesSent

/-! ### Outputs -/

/-- IRQn is low exactly while an enabled queue is non-empty (R169). -/
def State.IrqLaw (s : State) : Prop := s.hpt.irqnLow = s.irqCause

/-- While the line is idle and nothing is staged, what TXS presents is the winner of the choice (R98, R103). -/
def State.PresentedLaw (s : State) : Prop :=
  s.lineIdle = true → s.txs.staged = none → s.txs.presented = s.choose

/-! ### Bounds -/

/-- The score is at most 255 (R126), every counter at most 65535 (R181), the drop count at most 255 (R178), and at most 16
notices are queued (R175). -/
def State.BoundsLaw (s : State) : Prop :=
  s.hmn.score ≤ 255 ∧ (∀ n ∈ s.hpt.counters.toList, n ≤ 65535) ∧ s.hpt.drops ≤ 255 ∧ s.hpt.notices.length ≤ 16

/-- The port: a byte that is not complete has at most seven bits, and outside a transaction there is none and SCLK counts as
low (R157); the command's code byte opens the transaction, so SCLK is high in COMMAND only within it; in PARAMETERS a byte is
still due, and the bytes taken are counted; in ANSWER a byte is still due (R158, R160). -/
def State.PortLaw (s : State) : Prop :=
  let p := s.hpt.port
  p.bits.length ≤ 7 ∧ (p.phase.selected = false → p.bits = [] ∧ p.held = none)
    ∧ (p.phase = .command → p.bits = [] → p.held = none)
    ∧ (p.phase = .parameters →
        p.count = p.params.length ∧ ∃ c, p.command = some c ∧ p.params.length < paramsNeeded c p.params)
    ∧ (p.phase = .answer → p.count < p.answer.length)

/-- The message in a slot; none in a FREE slot. -/
def Slot.message : Slot → Option Message
  | .free => none
  | .queued m => some m
  | .sent m _ _ => some m
  | .complete m _ _ => some m

/-- Every message in a slot has an urgency 1 to 3 and at most 48 payload bytes (R89), and every delivery record at most 48
(R71). -/
def State.MessageLaw (s : State) : Prop :=
  (∀ h, ∀ m ∈ (s.txs.slot h).message, m.urgency ≠ 0 ∧ m.payload.length ≤ 48)
    ∧ ∀ r ∈ s.mst.delivery, r.payload.length ≤ 48

/-! ### Operating states -/

/-- The ranges of the frozen record (R145). -/
def recordInRange (c : ConfigRecord) : Prop :=
  c.epoch ≠ 0 ∧ (1 ≤ c.quota ∧ c.quota ≤ 15) ∧ c.headroom ≤ 16 ∧ c.ackDelay ≤ 31
    ∧ (8 ≤ c.ackTimeout ∧ c.ackTimeout ≤ 4095 ∧ 2 * c.ackDelay + 8 ≤ c.ackTimeout)
    ∧ (1 ≤ c.maxRetries ∧ c.maxRetries ≤ 15) ∧ (100 ≤ c.helloInterval ∧ c.helloInterval ≤ 60000)
    ∧ (3 ≤ c.silenceMultiple ∧ c.silenceMultiple ≤ 15) ∧ (10 ≤ c.holdoff ∧ c.holdoff ≤ 60000)

/-- The control section: a record and an epoch are held exactly outside UNCONFIGURED, the record within its ranges and the
straps below 31 (R140, R145, R155); the hello timer runs in RUNNING only, the holdoff in DETACHED, the leave limit in
LEAVING, and hello-due and the LEAVING HELLO belong to RUNNING and LEAVING (R35, R136, R150, R152). -/
def State.ControlLaw (s : State) : Prop :=
  (s.control.config = none ↔ s.control.opState = .unconfigured)
    ∧ (s.control.epoch = 0 ↔ s.control.opState = .unconfigured)
    ∧ (∀ c ∈ s.control.config, recordInRange c ∧ s.control.ownAddr.toNat ≤ 30)
    ∧ (s.pen.helloTimer ≠ 0 ↔ s.control.opState = .running)
    ∧ (s.hmn.holdoff ≠ 0 ↔ s.control.opState = .detached)
    ∧ (s.control.leaveLimit ≠ 0 ↔ s.control.opState = .leaving)
    ∧ (s.control.leavingHelloDue = true ↔ s.control.opState = .leaving)
    ∧ (s.pen.helloDue = true → s.control.opState = .running)

/-! ### The line interface unit -/

/-- The line states in which a frame of this station is on the line (R10). -/
def LineState.transmits : LineState → Bool
  | .contending => true
  | .sending => true
  | .idle => false
  | .receiving => false
  | .recovering => false

/-- The LIU: a frame is staged exactly in CONTENDING and SENDING, and then TXS holds its record (R12, R105); a disabled LIU
is at rest, with nothing presented to it (R11, R23); the idle count is at most 11, and while enabled it stands at 11 in IDLE
and below in RECOVERING (R3, R10); an element of the staged frame is being driven, past the contention field in SENDING and
within it in CONTENDING, and LTX is low exactly while that element is dominant (R1, R7). -/
def State.LineLaw (s : State) : Prop :=
  (s.liu.staging.isSome = s.liu.line.transmits) ∧ (s.txs.staged.isSome = s.liu.line.transmits)
    ∧ (s.enabled = false → s.liu = .disabled ∧ s.txs.presented = none)
    ∧ s.liu.idleCount ≤ 11
    ∧ (s.enabled = true → (s.liu.line = .idle → s.liu.idleCount = 11) ∧ (s.liu.line = .recovering → s.liu.idleCount < 11))
    ∧ (s.liu.ltxLow = true ↔ s.liu.elements[s.liu.matched]? = some false)
    ∧ (s.liu.line = .contending → s.liu.matched < 8)
    ∧ (s.liu.line = .sending → 8 ≤ s.liu.matched ∧ s.liu.matched < s.liu.elements.length)
    ∧ (s.liu.line.transmits = false → s.liu.matched = 0)

/-- The assembly buffer: at most seven contention bits and 56 bytes, no byte before the seventh bit; the bytes stored have
passed the checks that fell so far and are no more than the frame has; and of the byte or end marker that follows, nine or ten
elements at most are waiting (R17, R18). -/
def State.AssemblyLaw (s : State) : Prop :=
  let a := s.liu.assembly
  a.bits.length ≤ 7 ∧ (a.bits.length < 7 → a.bytes = [] ∧ a.tail = [])
    ∧ a.bytes.length ≤ 56 ∧ storedBytesPass (contentionOfBits a.bits) a.bytes = true
    ∧ (∀ n, knownLength a.bytes = some n → a.bytes.length ≤ n) ∧ (knownLength a.bytes = none → a.bytes.length < 6)
    ∧ a.tail.length ≤ (if phaseComplete a.bytes then 10 else 9)

/-! ### Transmit slots -/

/-- The submission order list holds each QUEUED or SENT slot once, the completion queue each COMPLETE slot once, and
neither holds another (R90, R91). -/
def Txs.SlotLaw (t : Txs) : Prop :=
  t.order.Nodup ∧ t.completions.Nodup
    ∧ ∀ h, (h ∈ t.order ↔ (t.slot h).isOpen = true) ∧ (h ∈ t.completions ↔ (t.slot h).isComplete = true)

/-! ### Peers -/

/-- The entry at the own address is SELF and no other is (R24); outside RUNNING every other entry is ABSENT (R140). -/
def State.PeerLaw (s : State) : Prop :=
  (∀ p, (s.peer p).state = .self ↔ stationAddress p = s.control.ownAddr)
    ∧ (s.isRunning = false → ∀ p, (s.peer p).state = .absent ∨ (s.peer p).state = .self)

/-- An entry whose session fields, flags and timers are all at rest; state, peerEpoch and sessionCount are its own. -/
def PeerEntry.atRest (e : PeerEntry) : PeerEntry :=
  { PeerEntry.absentEntry with state := e.state, peerEpoch := e.peerEpoch, sessionCount := e.sessionCount }

/-- What an entry holds in each association state (R24, R25, R29, R40, R42, R43, R62). -/
def PeerEntry.StateLaw (e : PeerEntry) : Prop :=
  match e.state with
  | .absent => e = e.atRest ∧ e.peerEpoch = 0
  | .lost => e = e.atRest ∧ e.peerEpoch ≠ 0
  | .self => e = PeerEntry.selfEntry
  | .syncing =>
    e.peerEpoch ≠ 0 ∧ e.nextTxSeq = 0 ∧ e.oldestUnacked = 0 ∧ e.heldLimit = 0 ∧ e.expected = 0 ∧ e.acceptPending = false
      ∧ e.ackPending = false ∧ e.joinTimer ≠ 0 ∧ e.silenceTimer ≠ 0 ∧ e.ackTimer = 0
  | .linked =>
    e.peerEpoch ≠ 0 ∧ e.openPending = false ∧ e.joinTimer = 0 ∧ e.silenceTimer ≠ 0
      ∧ (e.ackTimer ≠ 0 ↔ e.outstanding ≠ 0)

/-- Every entry holds what its association state allows, and its retry count is at most max retries (R29, R66). -/
def State.EntryLaw (s : State) : Prop :=
  ∀ p, (s.peer p).StateLaw ∧ (s.peer p).retryCount ≤ s.cfg.maxRetries

/-- An entry has an ack or a grant it has not yet carried exactly while its ack-delay timer runs or a CREDIT is due (R59,
R61). -/
def PeerEntry.CarryLaw (e : PeerEntry) : Prop :=
  (e.ackPending = true ∨ e.grantPending = true) ↔ (e.ackDelayTimer ≠ 0 ∨ e.creditDue = true)

/-! ### Sessions -/

/-- What a staging record says of the slot it names: it is never FREE, since a release leaves the record naming no slot (R97),
and the rest holds as long as the slot is QUEUED or SENT (R105, R106). -/
def State.StagedStands (s : State) : StagingRecord → Prop
  | .firstSend (some h) p q c =>
    (s.txs.slot h).isFree = false
      ∧ ((s.txs.slot h).isOpen = true →
          (s.txs.slot h).isQueuedTo p = true ∧ (s.peer p).state = .linked ∧ (s.peer p).sessionCount = c.sessionCount
            ∧ (s.peer p).nextTxSeq = q ∧ 1 ≤ (s.peer p).heldCredit)
  | .resend (some h) p q c =>
    (s.txs.slot h).isFree = false
      ∧ ((s.txs.slot h).isOpen = true → (s.txs.slot h).isSentAs p q = true ∧ (s.peer p).sessionCount = c.sessionCount)
  | .group (some h) => (s.txs.slot h).isQueued = true ∧ ∀ p, (s.txs.slot h).isQueuedTo p = false
  | _ => True

/-- A peer that is not LINKED has no SENT slot, and an ABSENT or LOST peer no QUEUED DATA slot (R29); in UNCONFIGURED and
READY no slot is QUEUED or SENT (R140), and in LEAVING none but a staged GROUP (R151); the staging record stands. -/
def State.SessionLaw (s : State) : Prop :=
  (∀ h p, (s.txs.slot h).isSentTo p = true → (s.peer p).state = .linked)
    ∧ (∀ h, (s.txs.slot h).isOpen = true → (s.txs.slot h).isQueued = true ∨ ∃ p, (s.txs.slot h).isSentTo p = true)
    ∧ (∀ h p, (s.txs.slot h).isQueuedTo p = true → (s.peer p).isLive = true)
    ∧ (s.enabled = false → ∀ h, (s.txs.slot h).isOpen = false)
    ∧ (s.control.opState = .leaving → ∀ h, (s.txs.slot h).isOpen = true → s.txs.staged = some (.group (some h)))
    ∧ ∀ r ∈ s.txs.staged, s.StagedStands r

/-- The send window of every peer: outstanding span within the window, the window at most 15, each seq of the outstanding
span borne by one SENT slot of the peer and no other seq by any (R48). -/
def State.WindowLaw (s : State) : Prop :=
  ∀ p, (s.peer p).outstanding ≤ ((s.peer p).heldLimit - (s.peer p).oldestUnacked).toNat
    ∧ ((s.peer p).heldLimit - (s.peer p).oldestUnacked).toNat ≤ 15
    ∧ ∀ q, (handles.filter fun h => (s.txs.slot h).isSentAs p q).length
        = if (q - (s.peer p).oldestUnacked).toNat < (s.peer p).outstanding then 1 else 0

/-! ### The choice -/

/-- The candidates of a choice (R99, R100, R101). -/
def State.Offers (s : State) : Candidate → Prop
  | .hello => s.isRunning = true ∧ s.pen.helloDue = true
  | .leavingHello => s.control.opState = .leaving ∧ s.control.leavingHelloDue = true
  | .control .acceptFrame p => s.isRunning = true ∧ (s.peer p).acceptPending = true ∧ (s.peer p).state = .linked
  | .control .openFrame p =>
    s.isRunning = true ∧ s.hmn.level = .sound ∧ (s.peer p).openPending = true ∧ (s.peer p).state = .syncing
  | .control .creditFrame p => s.isRunning = true ∧ (s.peer p).creditDue = true ∧ (s.peer p).state = .linked
  | .resend h p =>
    s.isRunning = true ∧ s.hmn.level = .sound ∧ (s.peer p).state = .linked ∧ (s.txs.slot h).isMarkedFor p = true
      ∧ ∀ h' q q', (s.txs.slot h').isMarkedFor p = true → (s.txs.slot h).isSentAs p q = true →
          (s.txs.slot h').isSentAs p q' = true →
          (q - (s.peer p).oldestUnacked).toNat ≤ (q' - (s.peer p).oldestUnacked).toNat
  | .firstSend h p =>
    s.isRunning = true ∧ s.hmn.level = .sound ∧ (s.peer p).state = .linked ∧ 1 ≤ (s.peer p).heldCredit
      ∧ (∀ h', (s.txs.slot h').isMarkedFor p = false) ∧ (s.txs.slot h).isQueuedTo p = true
      ∧ ∀ h', (s.txs.slot h').isQueuedTo p = true →
          (s.txs.slot h).urgency.toNat < (s.txs.slot h').urgency.toNat
            ∨ (s.txs.slot h).urgency = (s.txs.slot h').urgency ∧ s.txs.order.idxOf h ≤ s.txs.order.idxOf h'
  | .group h =>
    s.isRunning = true ∧ s.hmn.level = .sound ∧ s.txs.stagedHandle ≠ some h
      ∧ ∃ m tag, s.txs.slot h = .queued m ∧ m.target = .group tag

/-- How far an address lies after the pointer in its rotation: the one just after it first, the pointer itself last (R78,
R103). -/
def placeAfter (pointer p : Station) : Nat := (p - pointer - 1).val

/-- The order of the choice as one number: urgency, then class, then kind, then rotation or submission age (R103). A
submission order list holds at most 24 slots (R91). -/
def State.rank (s : State) : Candidate → Nat
  | .control .acceptFrame p => placeAfter s.txs.controlPtr p
  | .control .openFrame p => 32 + placeAfter s.txs.controlPtr p
  | .control .creditFrame p => 64 + placeAfter s.txs.controlPtr p
  | .leavingHello => 96
  | .resend h _ => 128 * (s.txs.slot h).urgency.toNat + s.txs.order.idxOf h
  | .firstSend h _ => 128 * (s.txs.slot h).urgency.toNat + 32 + s.txs.order.idxOf h
  | .group h => 128 * (s.txs.slot h).urgency.toNat + 32 + s.txs.order.idxOf h
  | .hello => 128 * 3 + 96

/-! ### The message store -/

/-- The commitment of the store: stored and storedGroup count the delivery queue, storedGroup is at most G, the three
committed parts never exceed 48 records (R70, R72, R73), every reservation is at most quota and 0 outside SYNCING and
LINKED (R74); before CONFIGURE the store is empty (R87). -/
def State.StoreLaw (s : State) : Prop :=
  s.mst.stored = s.mst.delivery.length ∧ s.mst.storedGroup = s.mst.delivery.countP DeliveryRecord.isGroup
    ∧ s.mst.storedGroup ≤ s.cfg.headroom
    ∧ s.mst.stored + s.pen.reserved + (s.cfg.headroom - s.mst.storedGroup) ≤ 48
    ∧ (∀ p, (s.peer p).reservation ≤ s.cfg.quota ∧ ((s.peer p).isLive = false → (s.peer p).reservation = 0))
    ∧ (s.control.opState = .unconfigured → s.mst.delivery = [])

/-! ### All laws -/

/-- The laws that hold the sessions together: each is kept by every step from a state that meets them all. -/
def State.Lawful (s : State) : Prop :=
  s.ControlLaw ∧ s.LineLaw ∧ s.PresentedLaw ∧ s.txs.SlotLaw ∧ s.PeerLaw ∧ s.SessionLaw ∧ s.WindowLaw ∧ s.EntryLaw
    ∧ s.StoreLaw

end Sys2Proof.Machine
end

