-- ==== Sys2Proof/Certificates/Slice0/Obligations.lean ====
section
/-! DEFINITION. The statements for the provers: what each command does, and the laws that every step keeps. -/

open Sys2Proof Sys2Proof.Machine

/-! ### The queue and the reset -/

/-- A step takes the command at the front of the queue and runs it with the queue's rest; with no command waiting it takes the
first bit time or byte that the pins bring, and with none of those it idles (DESIGN CHOICE, log entry 4). -/
def Obligations.StepRunsFrontCommand : Prop :=
  (∀ (c : Instr) (rest : List Instr) (s : State), step { s with pending := c :: rest } = exec c { s with pending := rest })
  ∧ (∀ (i : Input) (rest : List Input) (s : State), s.pending = [] →
      step { s with inputs := i :: rest } = takeInput i { s with inputs := rest })
  ∧ ∀ s : State, s.pending = [] → s.inputs = [] → step s = .next s

/-- Every command, bit time and byte has a next state, and none touches what waits: no fault and no refusal stands in the way
of a run (the model's reading of R10, R11, R141 and R161: an event that cannot reach the part changes nothing; log entry 3). -/
def Obligations.EveryCommandCompletesAndKeepsQueue : Prop :=
  (∀ (c : Instr) (s : State), ∃ t, exec c s = .next t ∧ t.pending = s.pending ∧ t.inputs = s.inputs)
  ∧ ∀ (i : Input) (s : State), ∃ t, takeInput i s = .next t ∧ t.pending = s.pending ∧ t.inputs = s.inputs

/-- PIN_RESET (R141): in whatever state the part is, the line and IRQn are released, the transaction is abandoned with none of
its end effects, every timer stops, the time stamp is held at 0, and every slot, record, notice, completion, count and peer
entry is discarded. While RSTn stays low MISO is at high impedance (R168), and the part ignores every event but RSTn's own
edges. That the part counts as UNCONFIGURED with its own address at 0 until RSTn rises is the model's (DESIGN CHOICE, log
entry 10): the straps are not sampled yet. -/
def Obligations.PinResetDiscardsEverything : Prop :=
  (∀ s : State, exec .pinReset s = .next
      { inReset := true
        control := { ownAddr := 0, opState := .unconfigured, config := none, epoch := 0, leavingHelloDue := false,
                     leaveLimit := 0 }
        liu := { line := .idle, idleCount := 0, staging := none, matched := 0, assembly := ⟨[], [], []⟩, ltxLow := false }
        pen := { peers := Vector.ofFn fun (p : Station) => if p = 0 then PeerEntry.selfEntry else PeerEntry.absentEntry
                 helloTimer := 0, helloDue := false }
        mst := { delivery := [], stored := 0, storedGroup := 0, rotation := 0 }
        txs := { slots := Vector.replicate 24 .free, order := [], completions := [], staged := none, presented := none,
                 controlPtr := 0 }
        hmn := { score := 0, level := .sound, holdoff := 0 }
        hpt := { port := .between .waiting false, notices := [], drops := 0, counters := .zero, irqnLow := false }
        stamp := 0
        pending := s.pending
        inputs := s.inputs })
  ∧ (∀ (c : Instr) (s : State), s.inReset = true → c ≠ .pinReset → (∀ a low, c ≠ .rstnRelease a low) → exec c s = .next s)
  ∧ ∀ (i : Input) (s : State), s.inReset = true → takeInput i s = .next s ∧ s.miso = none

/-- RSTN_RELEASE (R142, R168): the rising edge of RSTn samples the straps and enters UNCONFIGURED with the state R142 gives,
whole; the port waits for CSn to rise if CSn is low, and that rise opens it without setting the aborted flag, while a fall of
CSn before it opens nothing. That RSTN_RELEASE without RSTn low changes nothing, there being no such edge, is the model's
reading (DEDUCED, log entry 3). -/
def Obligations.ReleaseEntersUnconfigured : Prop :=
  (∀ (s : State) (straps : Address) (csnLow : Bool), s.inReset = true →
    exec (.rstnRelease straps csnLow) s = .next
      { inReset := false
        control := { ownAddr := straps, opState := .unconfigured, config := none, epoch := 0, leavingHelloDue := false,
                     leaveLimit := 0 }
        liu := { line := .idle, idleCount := 0, staging := none, matched := 0, assembly := .empty, ltxLow := false }
        pen := { peers := Vector.ofFn fun (p : Station) =>
                   if stationAddress p = straps then PeerEntry.selfEntry else PeerEntry.absentEntry
                 helloTimer := 0, helloDue := false }
        mst := { delivery := [], stored := 0, storedGroup := 0, rotation := 0 }
        txs := { slots := Vector.replicate 24 .free, order := [], completions := [], staged := none, presented := none,
                 controlPtr := 0 }
        hmn := { score := 0, level := .sound, holdoff := 0 }
        hpt := { port := .between (if csnLow then .awaitingRise else .waiting) false, notices := [], drops := 0,
                 counters := .zero, irqnLow := false }
        stamp := 0
        pending := s.pending
        inputs := s.inputs })
  ∧ (∀ (s : State) (straps : Address) (csnLow : Bool), s.inReset = false → exec (.rstnRelease straps csnLow) s = .next s)
  ∧ ∀ s : State, s.inReset = false → s.hpt.port.phase = .awaitingRise →
      Leaves .chipSelectRiseAfterReset s s.portClosed ∧ exec .transactionStart s = .next s

/-- TIME_STAMP_TICK (R142): the time stamp advances by one, wrapping at 16 bits, and nothing but the timers changes with it.
Every running timer that is not held loses one TU, down to its last TU, in which it waits for its expiry: that reading of
"remaining time" is the model's (DESIGN CHOICE, log entry 5). In GUARDED the join and ack timers are held (R46, R68). -/
def Obligations.TickAdvancesStampAndTimers : Prop :=
  (tickTimer 0 = 0 ∧ tickTimer 1 = 1 ∧ ∀ n, tickTimer (n + 2) = n + 1)
  ∧ ∀ s : State, s.inReset = false →
    Leaves .timeStampTick s
      { s with
        stamp := s.stamp + 1
        control := { s.control with leaveLimit := tickTimer s.control.leaveLimit }
        pen := { s.pen with
          peers := Vector.ofFn fun (p : Station) =>
            let e : PeerEntry := s.peer p
            let held := s.hmn.level = .guarded
            { e with
              joinTimer := if held then e.joinTimer else tickTimer e.joinTimer
              silenceTimer := tickTimer e.silenceTimer
              ackTimer := if held then e.ackTimer else tickTimer e.ackTimer
              ackDelayTimer := tickTimer e.ackDelayTimer }
          helloTimer := tickTimer s.pen.helloTimer }
        hmn := { s.hmn with holdoff := tickTimer s.hmn.holdoff } }

/-! ### Transactions -/

/-- A transaction up to its judgement. TRANSACTION_START fixes the summary byte of R159, bit for bit, and enters COMMAND with nothing else
in the part changed (R158); a CONFIGURE with fewer than 31 parameter bytes, or a SUBMIT with fewer than its six and the payload its
length byte asks for, waits in PARAMETERS with the bytes stored and changes nothing else (R144, R160); and
TRANSACTION_CUT_SHORT, in COMMAND, PARAMETERS or ANSWER, sets the aborted flag, takes no end effect, discards the bits of an
incomplete byte (R157) and changes nothing else in the part (R164). That the port then holds no summary byte, count, command,
parameter, answer or snapshot, and that TRANSACTION_START clears them, is the model's (DESIGN CHOICE, log entry 16). A command
row stands for its code byte and the parameter bytes clocked after it, from a byte boundary on (DEDUCED, log entries 9 and
26). -/
def Obligations.TransactionsRunUntilJudged : Prop :=
  (∀ s : State, s.inReset = false → s.hpt.port.phase = .waiting →
    ∃ summary : Byte,
      summary.getLsbD 7 = false
        ∧ (summary.getLsbD 6 = true ↔ s.hpt.notices ≠ [])
        ∧ (summary.getLsbD 5 = true ↔ s.txs.completions ≠ [])
        ∧ (summary.getLsbD 4 = true ↔ s.mst.delivery ≠ [])
        ∧ (summary.getLsbD 3 = true ↔ s.hmn.level = .guarded)
        ∧ summary.extractLsb' 0 3 =
            (match s.control.opState with
             | .unconfigured => 0
             | .ready => 1
             | .running => 2
             | .detached => 3
             | .leaving => 4)
        ∧ Leaves .transactionStart s
            { s with
              hpt := { s.hpt with
                port :=
                  { phase := .command, count := 0, summary := summary, command := none, params := [], answer := [],
                    snapshot := none, bits := [], held := none, aborted := s.hpt.port.aborted } } })
  ∧ (∀ (s : State) (params : List Byte), s.TakesCommand →
      let waits (c : HostCommand) : State :=
        { s with
          hpt := { s.hpt with
            port := { s.hpt.port with phase := .parameters, count := params.length, command := some c, params := params } } }
      let length := (byteAt params 5).toNat
      (params.length < 31 → Leaves (.configure params) s (waits .configure))
      ∧ (params.length < 6 ∨ params.length < 6 + (if length ≤ 48 then length else 0) →
          Leaves (.submit params) s (waits .submit)))
  ∧ ∀ s : State, s.inReset = false →
      s.hpt.port.phase = .command ∨ s.hpt.port.phase = .parameters ∨ s.hpt.port.phase = .answer →
      Leaves .transactionCutShort s
        { s with
          hpt := { s.hpt with
            port :=
              { phase := .waiting, count := 0, summary := 0, command := none, params := [], answer := [], snapshot := none,
                bits := [], held := none, aborted := true } } }

/-- A transaction byte by byte and bit by bit (R157, R158, R160, R163). In COMMAND the code byte of CONFIGURE, SUBMIT, CANCEL or
READ_PEER enters PARAMETERS with no byte counted, and every other code is its command, or UNKNOWN_COMMAND. In PARAMETERS a byte
is stored, and the last one that the command takes has the command's row with all of them. In ANSWER a byte is given, the last
one entering OVERRUN; OVERRUN counts on. Within a byte, MOSI is sampled at each rising edge of SCLK, the eighth completing the
byte, most significant bit first; MISO gives, bit for bit in the same order, the summary byte, 0x00 for a parameter, the
answer, then 0x00, and changes at the falling edge. With CSn high MISO is at high impedance, and with CSn high, or not yet
risen after a reset, no edge and no byte changes anything (R168). That a whole byte is taken between two bytes only, SCLK low,
and that an edge to the level SCLK has is none, is the model's (DEDUCED, log entry 26). -/
def Obligations.BytesDriveTheTransaction : Prop :=
  (∀ (s : State) (byte : Byte), s.inReset = false → s.hpt.port.bits = [] → s.hpt.port.held = none →
    let port := s.hpt.port
    let with' (q : Port) : State := { s with hpt := { s.hpt with port := q } }
    let waits (c : HostCommand) (params : List Byte) : Prop := Takes (.mosiByte byte) s
      (with' { port with phase := .parameters, count := params.length, command := some c, params := params })
    (port.phase = .command →
      (∀ c, (byte, c) ∈ [((0x10 : Byte), HostCommand.configure), (0x20, .submit), (0x21, .cancel), (0x33, .readPeer)] →
          waits c [])
      ∧ (∀ i, (byte, i) ∈ [((0x11 : Byte), Instr.start), (0x12, .leave), (0x13, .reset), (0x30, .readMessage),
            (0x31, .readCompletion), (0x32, .readNotice), (0x34, .readStatus), (0x35, .readCounters)] →
          TakesAs (.mosiByte byte) s i)
      ∧ (byte ∉ [0x10, 0x11, 0x12, 0x13, 0x20, 0x21, 0x30, 0x31, 0x32, 0x33, 0x34, 0x35] →
          TakesAs (.mosiByte byte) s (.unknownCommand byte)))
    ∧ (port.phase = .parameters →
        let params := port.params ++ [byte]
        let length := (byteAt params 5).toNat
        let takes (c : HostCommand) (need : Nat) (row : Instr) : Prop := port.command = some c →
          (params.length < need → waits c params)
          ∧ (params.length = need →
              ∃ t, takeInput (.mosiByte byte) s = .next t ∧ exec row (with' { port with phase := .command }) = .next t)
        takes .configure 31 (.configure params)
        ∧ takes .submit (if params.length < 6 ∨ 48 < length then 6 else 6 + length) (.submit params)
        ∧ takes .cancel 1 (.cancel (byteAt params 0)) ∧ takes .readPeer 1 (.readPeer (byteAt params 0)))
    ∧ (port.phase = .answer →
        (port.count + 1 < port.answer.length → Takes (.mosiByte byte) s (with' { port with count := port.count + 1 }))
        ∧ (port.count + 1 = port.answer.length → Takes (.mosiByte byte) s (with' { port with phase := .overrun, count := 0 })))
    ∧ (port.phase = .overrun → Takes (.mosiByte byte) s (with' { port with count := port.count + 1 })))
  ∧ ∀ (s : State) (mosi : Bool), s.inReset = false →
    let port := s.hpt.port
    let with' (q : Port) : State := { s with hpt := { s.hpt with port := q } }
    let carries (given : Byte) : Prop :=
      (port.held = none →
        s.miso = some (given.getLsbD (7 - port.bits.length))
        ∧ (port.bits.length < 7 → Takes (.sclkRise mosi) s (with' { port with bits := port.bits ++ [mosi], held := s.miso }))
        ∧ (port.bits.length = 7 → ∀ (byte : Byte) (t : State),
            (∀ i < 8, (port.bits ++ [mosi])[i]? = some (byte.getLsbD (7 - i))) →
            takeInput (.mosiByte byte) (with' { port with bits := [] }) = .next t →
            Takes (.sclkRise mosi) s { t with hpt := { t.hpt with port := { t.hpt.port with held := s.miso } } })
        ∧ takeInput .sclkFall s = .next s)
      ∧ ∀ level, port.held = some level →
        s.miso = some level ∧ takeInput (.sclkRise mosi) s = .next s
        ∧ Takes .sclkFall s (with' { port with held := none })
    (port.phase = .command → carries port.summary) ∧ (port.phase = .parameters → carries 0)
    ∧ (∀ b, port.phase = .answer → port.answer[port.count]? = some b → carries b) ∧ (port.phase = .overrun → carries 0)
    ∧ (port.phase = .waiting → s.miso = none)
    ∧ (port.phase = .waiting ∨ port.phase = .awaitingRise →
        ∀ i, (∀ recessive order, i ≠ .bitTime recessive order) → takeInput i s = .next s)

/-- TRANSACTION_END (R165): a complete READ_MESSAGE, READ_COMPLETION or READ_NOTICE that answered OK takes its head record
away (R84, R97, R179), a staging record that names the slot released names none from then on, READ_COUNTERS reduces each counter by its snapshot (R184), READ_STATUS clears the aborted flag
(R167), and any other answer has no end effect; each returns the port to WAITING. That the port then holds nothing of the transaction
is the model's (DESIGN CHOICE, log entry 16), and so is that the row, taken in ANSWER, stands for the answer bytes still due as
well (DEDUCED, log entry 9). -/
def Obligations.CompleteEndTakesItsEffect : Prop :=
  (∀ (s : State) (results : List Byte) (r : DeliveryRecord) (rest : List DeliveryRecord),
    s.Answering .readMessage (Status.ok.byte :: results) → s.mst.delivery = r :: rest →
    Leaves .transactionEnd s
      (State.grantAttempt
        { s with
          mst := { s.mst with
            delivery := rest
            stored := s.mst.stored - 1
            storedGroup := if r.isGroup then s.mst.storedGroup - 1 else s.mst.storedGroup } }).portClosed)
  ∧ (∀ (s : State) (results : List Byte) (h : Handle) (rest : List Handle),
      s.Answering .readCompletion (Status.ok.byte :: results) → s.txs.completions = h :: rest →
      Leaves .transactionEnd s
        (State.portClosed
          { s with
            txs := { s.txs with
              slots := s.txs.slots.set h .free
              completions := rest
              staged :=
                match s.txs.staged with
                | some (.firstSend h' p q c) => some (.firstSend (if h' = some h then none else h') p q c)
                | some (.resend h' p q c) => some (.resend (if h' = some h then none else h') p q c)
                | some (.group h') => some (.group (if h' = some h then none else h'))
                | other => other } }))
  ∧ (∀ (s : State) (results : List Byte) (n : Notice) (rest : List Notice),
      s.Answering .readNotice (Status.ok.byte :: results) → s.hpt.notices = n :: rest →
      Leaves .transactionEnd s (State.portClosed { s with hpt := { s.hpt with notices := rest } }))
  ∧ (∀ (s : State) (results : List Byte) (snap : Counters),
      s.Answering .readCounters (Status.ok.byte :: results) → s.hpt.port.snapshot = some snap →
      ∃ after : Counters, after.toList = List.zipWith (fun now then' => now - then') s.hpt.counters.toList snap.toList
        ∧ Leaves .transactionEnd s (State.portClosed { s with hpt := { s.hpt with counters := after } }))
  ∧ (∀ (s : State) (results : List Byte), s.Answering .readStatus (Status.ok.byte :: results) →
      Leaves .transactionEnd s { s with hpt := { s.hpt with port := .between .waiting false } })
  ∧ ∀ (s : State) (c : HostCommand) (status : Byte) (results : List Byte), s.Answering c (status :: results) →
      status ≠ Status.ok.byte ∨ c ∈ [.configure, .start, .leave, .reset, .submit, .cancel, .readPeer, .unknown] →
      Leaves .transactionEnd s s.portClosed

/-- UNKNOWN_COMMAND (R166): a code that names no command is answered UNKNOWN_COMMAND with no parameters and no results, and
changes nothing in the part; its transaction ends like any other complete one, or, cut short, sets the aborted flag. That the
port holds nothing of it afterwards is the model's (DESIGN CHOICE, log entry 16), and so is that TRANSACTION_END, taken in
ANSWER, stands for the status byte still due as well (DEDUCED, log entry 9). -/
def Obligations.UnknownCodeIsAnsweredAndChangesNothing : Prop :=
  ∀ (s : State) (code : Byte), s.TakesCommand →
    code ∉ [0x10, 0x11, 0x12, 0x13, 0x20, 0x21, 0x30, 0x31, 0x32, 0x33, 0x34, 0x35] →
    ∃ t, exec (.unknownCommand code) s = .next t
      ∧ t.withoutOutputs = (s.answered .unknown [] .unknownCommand []).withoutOutputs
      ∧ t.hpt.port.answer = [0x0C]
      ∧ Leaves .transactionEnd t s.portClosed
      ∧ Leaves .transactionCutShort t { s with hpt := { s.hpt with port := .between .waiting true } }

/-! ### Reading -/

/-- The reading commands fix the head record of their queue as the answer, or answer EMPTY, and take nothing away (R83, R96,
R179); the result bytes are those of R174. The status byte that opens this and every other answer has the values of R161. -/
def Obligations.ReadingCommandsAnswerTheHead : Prop :=
  (∀ status : Status, status.byte =
    match status with
    | .ok => 0x00
    | .empty => 0x01
    | .full => 0x02
    | .noPeer => 0x03
    | .badDest => 0x04
    | .badLength => 0x05
    | .badUrgency => 0x06
    | .noSuch => 0x07
    | .staged => 0x08
    | .inFlight => 0x09
    | .wrongState => 0x0A
    | .badConfig => 0x0B
    | .unknownCommand => 0x0C)
  ∧ ∀ s : State, s.TakesCommand →
    (s.mst.delivery = [] → Leaves .readMessage s (s.answered .readMessage [] .empty []))
    ∧ (∀ (src : Station) (seq : Seq) (payload : List Byte) (arrival : Stamp) (rest : List DeliveryRecord),
        s.mst.delivery = ⟨src, .data seq, payload, arrival⟩ :: rest →
        Leaves .readMessage s
          (s.answered .readMessage [] .ok
            ([BitVec.ofNat 8 src.val, 0, seq.setWidth 8, 0, BitVec.ofNat 8 payload.length, arrival.extractLsb' 8 8,
              arrival.extractLsb' 0 8] ++ payload)))
    ∧ (∀ (src : Station) (i : Fin 8) (tag : Byte) (payload : List Byte) (arrival : Stamp) (rest : List DeliveryRecord),
        s.mst.delivery = ⟨src, .group i tag, payload, arrival⟩ :: rest →
        Leaves .readMessage s
          (s.answered .readMessage [] .ok
            ([BitVec.ofNat 8 src.val, 1, BitVec.ofNat 8 i.val, tag, BitVec.ofNat 8 payload.length, arrival.extractLsb' 8 8,
              arrival.extractLsb' 0 8] ++ payload)))
    ∧ (s.txs.completions = [] → Leaves .readCompletion s (s.answered .readCompletion [] .empty []))
    ∧ (∀ (h : Handle) (rest : List Handle) (m : Message) (seq : Option Seq) (o : SlotOutcome),
        s.txs.completions = h :: rest → s.txs.slot h = .complete m seq o →
        Leaves .readCompletion s
          (s.answered .readCompletion [] .ok
            [BitVec.ofNat 8 h.val, m.cookie.extractLsb' 8 8, m.cookie.extractLsb' 0 8,
              match o with
              | .delivered => 0
              | .sent => 1
              | .cancelled => 2
              | .inDoubt => 3
              | .peerGone => 4]))
    ∧ (s.hpt.notices = [] → Leaves .readNotice s (s.answered .readNotice [] .empty []))
    ∧ ∀ (n : Notice) (rest : List Notice), s.hpt.notices = n :: rest →
        Leaves .readNotice s
          (s.answered .readNotice [] .ok
            ((match n.kind with
              | .peerLinked p => [0, BitVec.ofNat 8 p.val, 0]
              | .peerRestarted p => [1, BitVec.ofNat 8 p.val, 0]
              | .peerLost p cause =>
                [2, BitVec.ofNat 8 p.val,
                  match cause with
                  | .silence => 0
                  | .retries => 1
                  | .join => 2]
              | .peerLeft p => [3, BitVec.ofNat 8 p.val, 0]
              | .healthChanged condition =>
                [4, 0,
                  match condition with
                  | .sound => 0
                  | .guarded => 1
                  | .detached => 2]
              | .addressClash => [5, 0, 0]
              | .leaveDone timedOut => [6, 0, if timedOut then 1 else 0])
            ++ [n.stamp.extractLsb' 8 8, n.stamp.extractLsb' 0 8]))

/-- The snapshot commands answer the state as it stands and change nothing but the port: READ_PEER the 18 bytes of R171 for
an address 0 to 30 and NO_SUCH above (R47), READ_STATUS the 14 bytes of R172 with the uncommitted records of R73, READ_COUNTERS
the twelve counters high byte first, held as the snapshot of its transaction (R174, R183). Where the committed records exceed
48, which no reachable state shows, uncommitted is 0 in the model (DEDUCED, log entry 14). -/
def Obligations.SnapshotCommandsAnswerTheState : Prop :=
  ∀ s : State, s.TakesCommand →
    let word (n : Nat) : List Byte := [BitVec.ofNat 8 (n / 256), BitVec.ofNat 8 n]
    let flag (b : Bool) (place : Byte) : Byte := if b then place else 0
    let free := ((List.finRange 24).filter fun h => s.txs.slot h == .free).length
    let reserved := (s.pen.peers.toList.map fun e => (e.grantLimit - e.expected).toNat).sum
    let uncommitted := 48 - (s.mst.stored + reserved + (s.cfg.headroom - s.mst.storedGroup))
    (∀ p : Station, let e : PeerEntry := s.peer p
      Leaves (.readPeer (BitVec.ofNat 8 p.val)) s
        (s.answered .readPeer [BitVec.ofNat 8 p.val] .ok
          ([match e.state with
              | .absent => 0
              | .syncing => 1
              | .linked => 2
              | .lost => 3
              | .self => 4,
            e.peerEpoch, e.nextTxSeq.setWidth 8, e.oldestUnacked.setWidth 8, e.heldLimit.setWidth 8, e.expected.setWidth 8,
            e.grantLimit.setWidth 8,
            flag e.openPending 1 ||| flag e.acceptPending 2 ||| flag e.ackPending 4 ||| flag e.grantPending 8
              ||| flag e.creditDue 16,
            BitVec.ofNat 8 e.retryCount, e.sessionCount]
          ++ word e.joinTimer
          ++ [BitVec.ofNat 8 (e.silenceTimer / 65536), BitVec.ofNat 8 (e.silenceTimer / 256), BitVec.ofNat 8 e.silenceTimer]
          ++ word e.ackTimer ++ [BitVec.ofNat 8 e.ackDelayTimer])))
    ∧ (∀ address : Byte, 30 < address.toNat →
        Leaves (.readPeer address) s (s.answered .readPeer [address] .noSuch []))
    ∧ Leaves .readStatus s
        (s.answered .readStatus [] .ok
          ([match s.control.opState with
              | .unconfigured => 0
              | .ready => 1
              | .running => 2
              | .detached => 3
              | .leaving => 4,
            match s.hmn.level with
              | .sound => 0
              | .guarded => 1,
            BitVec.ofNat 8 s.hmn.score, s.control.epoch, s.control.ownAddr.setWidth 8, BitVec.ofNat 8 s.mst.stored,
            BitVec.ofNat 8 s.txs.completions.length, BitVec.ofNat 8 s.hpt.notices.length, BitVec.ofNat 8 free,
            BitVec.ofNat 8 uncommitted, BitVec.ofNat 8 s.hpt.drops, if s.hpt.port.aborted then 1 else 0]
          ++ [s.stamp.extractLsb' 8 8, s.stamp.extractLsb' 0 8]))
    ∧ Leaves .readCounters s
        ({ s with hpt := { s.hpt with port := { s.hpt.port with snapshot := some s.hpt.counters } } }.answered
          .readCounters [] .ok (s.hpt.counters.toList.flatMap word))

/-! ### Configuration and operating states -/

/-- CONFIGURE accepted (R144, R145, R146, R170): in UNCONFIGURED, with the straps below 31 and every field of the 31 bytes
in its range, two-byte numbers high byte first, the record is frozen field by field, the epoch becomes the current epoch, the part is READY and answers OK;
nothing else changes. -/
def Obligations.ConfigureInRangeIsAccepted : Prop :=
  ∀ (s : State) (b : List Byte) (rate : BitRate), s.TakesCommand → s.control.opState = .unconfigured → b.length = 31 →
    let word (i : Nat) : Nat := 256 * (byteAt b i).toNat + (byteAt b (i + 1)).toNat
    s.control.ownAddr.toNat ≤ 30 →
    ((byteAt b 0, rate) ∈
      [(0, BitRate.kbit125), (1, .kbit250), (2, .kbit500), (3, .kbit1000), (4, .kbit2000)]) →
    byteAt b 1 ≠ 0 → 1 ≤ (byteAt b 2).toNat → (byteAt b 2).toNat ≤ 15 → (byteAt b 3).toNat ≤ 16 →
    (byteAt b 4).toNat ≤ 31 → 8 ≤ word 5 → word 5 ≤ 4095 →
    2 * (byteAt b 4).toNat + 8 ≤ word 5 → 1 ≤ (byteAt b 7).toNat → (byteAt b 7).toNat ≤ 15 →
    100 ≤ word 8 → word 8 ≤ 60000 → 3 ≤ (byteAt b 10).toNat → (byteAt b 10).toNat ≤ 15 →
    10 ≤ word 11 → word 11 ≤ 60000 →
    Leaves (.configure b) s
      ({ s with
        control := { s.control with
          opState := .ready
          epoch := byteAt b 1
          config := some
            { bitRate := rate
              epoch := byteAt b 1
              quota := (byteAt b 2).toNat
              headroom := (byteAt b 3).toNat
              ackDelay := (byteAt b 4).toNat
              ackTimeout := word 5
              maxRetries := (byteAt b 7).toNat
              helloInterval := word 8
              silenceMultiple := (byteAt b 10).toNat
              holdoff := word 11
              deliveryInterrupt := (byteAt b 13).getLsbD 0
              completionInterrupt := (byteAt b 13).getLsbD 1
              noticeInterrupt := (byteAt b 13).getLsbD 2
              filters := Vector.ofFn fun i =>
                ⟨byteAt b (14 + i.val), byteAt b (22 + i.val), (byteAt b 30).getLsbD i.val⟩ } } }.answered
        .configure b .ok [])

/-- The state commands refused. CONFIGURE in UNCONFIGURED answers BAD_CONFIG with the index of the first check of R145 that
fails, two-byte numbers read high byte first, and changes nothing (R144); CONFIGURE in any other state, START outside READY, and LEAVE outside RUNNING and DETACHED
answer WRONG_STATE and change nothing (R140). -/
def Obligations.StateCommandsAreRefused : Prop :=
  (∀ (s : State) (b : List Byte) (i : Nat), s.TakesCommand → b.length = 31 → s.control.opState = .unconfigured →
    let word (i : Nat) : Nat := 256 * (byteAt b i).toNat + (byteAt b (i + 1)).toNat
    let checks : List Bool :=
      [decide (s.control.ownAddr.toNat ≤ 30),
       decide ((byteAt b 0).toNat ≤ 4),
       decide (1 ≤ (byteAt b 1).toNat),
       decide (1 ≤ (byteAt b 2).toNat ∧ (byteAt b 2).toNat ≤ 15),
       decide ((byteAt b 3).toNat ≤ 16),
       decide ((byteAt b 4).toNat ≤ 31),
       decide (8 ≤ word 5 ∧ word 5 ≤ 4095 ∧ 2 * (byteAt b 4).toNat + 8 ≤ word 5),
       decide (1 ≤ (byteAt b 7).toNat ∧ (byteAt b 7).toNat ≤ 15),
       decide (100 ≤ word 8 ∧ word 8 ≤ 60000),
       decide (3 ≤ (byteAt b 10).toNat ∧ (byteAt b 10).toNat ≤ 15),
       decide (10 ≤ word 11 ∧ word 11 ≤ 60000)]
    (∀ j < i, checks[j]? = some true) → checks[i]? = some false →
    Leaves (.configure b) s (s.answered .configure b .badConfig [BitVec.ofNat 8 i]))
  ∧ (∀ (s : State) (b : List Byte), s.TakesCommand → b.length = 31 → s.control.opState ≠ .unconfigured →
      Leaves (.configure b) s (s.answered .configure b .wrongState []))
  ∧ (∀ s : State, s.TakesCommand → s.control.opState ≠ .ready → Leaves .start s (s.answered .start [] .wrongState []))
  ∧ ∀ s : State, s.TakesCommand → s.control.opState ≠ .running → s.control.opState ≠ .detached →
      Leaves .leave s (s.answered .leave [] .wrongState [])

/-- START (R148): RUNNING, score 0 and SOUND, the LIU in RECOVERING with its idle count 0, hello-due set and the hello timer
started; the epoch, the peer table, the store, the slots, the queues, the counters and the pointers stand. -/
def Obligations.StartEntersRunning : Prop :=
  ∀ s : State, s.TakesCommand → s.control.opState = .ready →
    Leaves .start s
      ({ s with
        control := { s.control with opState := .running }
        hmn := { s.hmn with score := 0, level := .sound }
        liu := { s.liu with line := .recovering, idleCount := 0, ltxLow := false }
        pen := { s.pen with helloTimer := s.cfg.helloInterval, helloDue := true } }.answered .start [] .ok [])

/-- LEAVE (R150, R112): the holdoff stops, the part is LEAVING, every QUEUED slot not staged completes CANCELLED in
submission order, then every SYNCING or LINKED peer has its session ended in ascending address and it and every LOST entry
becomes ABSENT with peerEpoch 0, the hello timer stops, and the LEAVING HELLO and the leave limit begin. What the ends of
sessions complete is `SessionEndCompletesInOrder`'s. -/
def Obligations.LeaveCancelsThenEndsSessions : Prop :=
  ∀ s : State, s.TakesCommand → s.control.opState = .running ∨ s.control.opState = .detached →
    Leaves .leave s
      ({ s with
        control := { s.control with
          opState := .leaving, leavingHelloDue := true, leaveLimit := s.cfg.helloInterval }
        hmn := { s.hmn with holdoff := 0 }
        txs := stations.foldl
          (fun t p => if (s.peer p).isLive then t.endSession p (s.peer p).oldestUnacked else t)
          (s.txs.completeAll .cancelled
            (s.txs.order.filter fun h => (s.txs.slot h).isQueued && s.txs.stagedHandle != some h))
        pen :=
          { peers := Vector.ofFn fun (p : Station) =>
              let e : PeerEntry := s.peer p
              if e.isLive then { PeerEntry.absentEntry with sessionCount := e.sessionCount + 1 }
              else if e.state = AssocState.lost then { e with state := .absent, peerEpoch := 0 }
              else e
            helloTimer := 0
            helloDue := false } }.answered .leave [] .ok [])

/-- RESET (R154): in every operating state the LIU is disabled, every collection emptied, every timer stopped, the score 0
and SOUND, the pointers 0 and the aborted flag clear; with a configuration the epoch advances, 255 to 1, and the part is
READY, without one neither changes. The configuration, the own address, the counters, the drop count and the time stamp are
kept. -/
def Obligations.SoftResetKeepsConfigurationAndCounters : Prop :=
  ∀ s : State, s.TakesCommand →
    Leaves .reset s
      ({ s with
        control :=
          { ownAddr := s.control.ownAddr
            opState := if s.control.config = none then .unconfigured else .ready
            config := s.control.config
            epoch :=
              if s.control.config = none then s.control.epoch
              else if s.control.epoch = 255 then 1 else s.control.epoch + 1
            leavingHelloDue := false
            leaveLimit := 0 }
        liu := { line := .idle, idleCount := 0, staging := none, matched := 0, assembly := .empty, ltxLow := false }
        pen := { peers := Vector.ofFn fun (p : Station) =>
                   if stationAddress p = s.control.ownAddr then PeerEntry.selfEntry else PeerEntry.absentEntry
                 helloTimer := 0, helloDue := false }
        mst := { delivery := [], stored := 0, storedGroup := 0, rotation := 0 }
        txs := { slots := Vector.replicate 24 .free, order := [], completions := [], staged := none, presented := none,
                 controlPtr := 0 }
        hmn := { score := 0, level := .sound, holdoff := 0 }
        hpt := { s.hpt with notices := [], port := { s.hpt.port with aborted := false } } }.answered .reset [] .ok [])

/-! ### Transmit slots -/

/-- SUBMIT accepted (R93, R94, R173): in RUNNING or DETACHED, with a length up to 48, an urgency 1 to 3 and a good
destination, the lowest-numbered FREE slot is filled from the parameters, QUEUED, at the tail of the submission order list,
and its handle answered; nothing else changes. -/
def Obligations.SubmitTakesLowestFreeSlot : Prop :=
  ∀ (s : State) (b : List Byte) (target : Target) (h : Handle), s.TakesCommand →
    s.control.opState = .running ∨ s.control.opState = .detached →
    b.length = 6 + (byteAt b 5).toNat → (byteAt b 5).toNat ≤ 48 → 1 ≤ (byteAt b 2).toNat → (byteAt b 2).toNat ≤ 3 →
    ((byteAt b 0).getLsbD 0 = true ∧ target = .group (byteAt b 1)
      ∨ (byteAt b 0).getLsbD 0 = false
        ∧ ∃ p : Station, target = .data p ∧ (byteAt b 1).toNat = p.val ∧ stationAddress p ≠ s.control.ownAddr
          ∧ (s.peer p).state ≠ .absent ∧ (s.peer p).state ≠ .lost) →
    s.txs.slot h = .free → (∀ h' < h, s.txs.slot h' ≠ .free) →
    Leaves (.submit b) s
      ({ s with
        txs := { s.txs with
          slots := s.txs.slots.set h
            (.queued
              { target := target, urgency := (byteAt b 2).setWidth 2
                cookie := BitVec.ofNat 16 (256 * (byteAt b 3).toNat + (byteAt b 4).toNat), payload := b.drop 6 })
          order := s.txs.order ++ [h] } }.answered .submit b .ok [BitVec.ofNat 8 h.val])

/-- SUBMIT refused (R93): with its parameters complete, the payload bytes being the length up to 48 and none above, the first check that fails gives the status, and no slot, list or
queue changes. -/
def Obligations.SubmitIsRefusedByFirstFailingCheck : Prop :=
  ∀ (s : State) (b : List Byte) (status : Status), s.TakesCommand →
    b.length = 6 + (if (byteAt b 5).toNat ≤ 48 then (byteAt b 5).toNat else 0) →
    let data := (byteAt b 0).getLsbD 0 = false
    let wrongState := s.control.opState ≠ .running ∧ s.control.opState ≠ .detached
    let badLength := 48 < (byteAt b 5).toNat
    let badUrgency := (byteAt b 2).toNat = 0 ∨ 3 < (byteAt b 2).toNat
    let badDest := data ∧ ((byteAt b 1).toNat = s.control.ownAddr.toNat ∨ 31 ≤ (byteAt b 1).toNat)
    let noPeer := data ∧ ∃ p : Station, (byteAt b 1).toNat = p.val ∧ ((s.peer p).state = .absent ∨ (s.peer p).state = .lost)
    let full := ∀ h, s.txs.slot h ≠ .free
    (wrongState ∧ status = .wrongState
      ∨ ¬wrongState ∧ badLength ∧ status = .badLength
      ∨ ¬wrongState ∧ ¬badLength ∧ badUrgency ∧ status = .badUrgency
      ∨ ¬wrongState ∧ ¬badLength ∧ ¬badUrgency ∧ badDest ∧ status = .badDest
      ∨ ¬wrongState ∧ ¬badLength ∧ ¬badUrgency ∧ ¬badDest ∧ noPeer ∧ status = .noPeer
      ∨ ¬wrongState ∧ ¬badLength ∧ ¬badUrgency ∧ ¬badDest ∧ ¬noPeer ∧ full ∧ status = .full) →
    Leaves (.submit b) s (s.answered .submit b status [])

/-- CANCEL (R95): a QUEUED slot that is not staged completes CANCELLED, leaving the submission order list for the tail of the
completion queue; a staged one answers STAGED, a SENT one IN_FLIGHT, a FREE or COMPLETE one or a handle above 23 NO_SUCH, and
none of these changes anything. -/
def Obligations.CancelCompletesOnlyUnstagedQueued : Prop :=
  (∀ (s : State) (h : Handle), s.TakesCommand →
    (∀ m, s.txs.slot h = .queued m → s.txs.stagedHandle ≠ some h →
      Leaves (.cancel (BitVec.ofNat 8 h.val)) s
        ({ s with
          txs := { s.txs with
            slots := s.txs.slots.set h (.complete m none .cancelled)
            order := s.txs.order.erase h
            completions := s.txs.completions ++ [h] } }.answered .cancel [BitVec.ofNat 8 h.val] .ok []))
    ∧ (∀ m, s.txs.slot h = .queued m → s.txs.stagedHandle = some h →
        Leaves (.cancel (BitVec.ofNat 8 h.val)) s (s.answered .cancel [BitVec.ofNat 8 h.val] .staged []))
    ∧ (∀ m q marked, s.txs.slot h = .sent m q marked →
        Leaves (.cancel (BitVec.ofNat 8 h.val)) s (s.answered .cancel [BitVec.ofNat 8 h.val] .inFlight []))
    ∧ ((s.txs.slot h).isOpen = false →
        Leaves (.cancel (BitVec.ofNat 8 h.val)) s (s.answered .cancel [BitVec.ofNat 8 h.val] .noSuch [])))
  ∧ ∀ (s : State) (handle : Byte), s.TakesCommand → 23 < handle.toNat →
      Leaves (.cancel handle) s (s.answered .cancel [handle] .noSuch [])

/-! ### The line -/

/-- LINE_IDLE ends RECOVERING (R3, R10), and RECEPTION_START, a dominant sample in IDLE, opens a reception with the assembly
buffer empty (R6, R10, R17); neither changes anything but the LIU. Bit time by bit time, a recessive sample advances the idle
count to 11 at most and a dominant one clears it; at 11 RECOVERING ends as at LINE_IDLE; in IDLE with nothing presented a
dominant sample is RECEPTION_START; and a disabled LIU takes no sample (R11). -/
def Obligations.RecoveryEndsAndReceptionBegins : Prop :=
  (∀ s : State, s.OnLine .recovering →
    Leaves .lineIdle s { s with liu := { s.liu with line := .idle, idleCount := 11, ltxLow := false } })
  ∧ (∀ s : State, s.OnLine .idle →
      Leaves .receptionStart s
        { s with liu := { s.liu with line := .receiving, idleCount := 0, assembly := ⟨[], [], []⟩ } })
  ∧ (∀ (s : State) (order : FrameOrder), s.OnLine .recovering →
      Takes (.bitTime false order) s { s with liu := { s.liu with idleCount := 0 } }
      ∧ (s.liu.idleCount < 10 →
          Takes (.bitTime true order) s { s with liu := { s.liu with idleCount := s.liu.idleCount + 1 } })
      ∧ (10 ≤ s.liu.idleCount → TakesAs (.bitTime true order) s .lineIdle))
  ∧ (∀ (s : State) (order : FrameOrder), s.OnLine .idle → s.txs.presented = none →
      Takes (.bitTime true order) s { s with liu := { s.liu with idleCount := min 11 (s.liu.idleCount + 1) } }
      ∧ TakesAs (.bitTime false order) s .receptionStart)
  ∧ ∀ (s : State) (recessive : Bool) (order : FrameOrder), s.enabled = false → takeInput (.bitTime recessive order) s = .next s

/-- CHECK_ERROR (R10, R18, R127): the assembly is discarded, the LIU recovers with its idle count 0, CHECK_ERRORS is counted,
and the error is reported to HMN. A GOOD_FRAME whose bytes fail a check of R18 is a check error and nothing else (the
model's reading of the row's operands; log entry 7). -/
def Obligations.CheckErrorIsCountedAndReported : Prop :=
  ∀ s : State, s.OnLine .receiving →
    let u := State.healthReport .checkError
      { s with
        liu := { s.liu with line := .recovering, idleCount := 0, ltxLow := false, assembly := ⟨[], [], []⟩ }
        hpt := { s.hpt with
          counters := { s.hpt.counters with checkErrors := min 65535 (s.hpt.counters.checkErrors + 1) } } }
    Leaves .checkError s u
      ∧ ∀ (order : FrameOrder) (contention : BitVec 7) (bytes : List Byte),
          receiveFrame (assembledContention s.liu.assembly.bits contention) (assembledBytes s.liu.assembly bytes) = none →
          Leaves (.goodFrame order contention bytes) s u

/-- Reception, bit time by bit time (R17, R18, R19): seven contention bits fill the contention value; each byte of the byte
phase opens dominant, takes eight data bits with the least significant first, and is stored at its recessive stop element if
it passes the checks that fall there; N is known from the kind, for DATA and GROUP from the length field; after N bytes the
eleventh recessive bit time of the end marker completes the frame, as GOOD_FRAME does. Every other level is a check error. -/
def Obligations.ReceptionFollowsTheElements : Prop :=
  (∀ (s : State) (recessive : Bool) (order : FrameOrder), s.OnLine .receiving →
    let a := s.liu.assembly
    let c := contentionOfBits a.bits
    let phaseOver := knownLength a.bytes = some a.bytes.length
    let error := TakesAs (.bitTime recessive order) s .checkError
    let keeps (a' : Assembly) : Prop := Takes (.bitTime recessive order) s
      { s with liu := { s.liu with
          assembly := a', idleCount := if recessive then min 11 (s.liu.idleCount + 1) else 0 } }
    (a.bits.length < 7 → keeps { a with bits := a.bits ++ [recessive] })
    ∧ (7 ≤ a.bits.length → ¬phaseOver →
        (a.tail = [] → if recessive then error else keeps { a with tail := [false] })
        ∧ (1 ≤ a.tail.length → a.tail.length < 9 → keeps { a with tail := a.tail ++ [recessive] })
        ∧ (9 ≤ a.tail.length →
            let bytes := a.bytes ++ [byteOfBits (a.tail.drop 1)]
            if recessive = true ∧ storedBytesPass c bytes = true then keeps { a with bytes := bytes, tail := [] } else error))
    ∧ (7 ≤ a.bits.length → phaseOver →
        (recessive = false → error)
        ∧ (recessive = true → a.tail.length < 10 → keeps { a with tail := a.tail ++ [true] })
        ∧ (recessive = true → 10 ≤ a.tail.length → TakesAs (.bitTime recessive order) s (.goodFrame order c a.bytes))))
  ∧ (∀ b : Byte, byteOfBits (dataBits b) = b ∧ ∀ i < 8, (dataBits b)[i]? = some (b.getLsbD i))
  ∧ ∀ (c : BitVec 7) (first : Byte) (rest : List Byte),
      let bytes := first :: rest
      let kind := (first.extractLsb' 5 3).toNat
      let n (i : Nat) := ((byteAt bytes i).extractLsb' 0 6).toNat
      let crc := bytes.drop (bytes.length - 2) = bytesOf16 (frameCheck c (bytes.take (bytes.length - 2)))
      (kind = 0 → knownLength bytes = some 5)
      ∧ (kind ∈ [1, 2, 3] → knownLength bytes = some 7)
      ∧ (kind = 4 → knownLength bytes = if 6 ≤ bytes.length then some (8 + n 5) else none)
      ∧ (kind = 5 → knownLength bytes = if 3 ≤ bytes.length then some (5 + n 2) else none)
      ∧ (storedBytesPass c bytes = true ↔
          kind ≤ 5 ∧ (kind = 0 → first.extractLsb' 0 5 = 31) ∧ (kind = 4 → 6 ≤ bytes.length → n 5 ≤ 48)
            ∧ (kind = 5 → 3 ≤ bytes.length → n 2 ≤ 48) ∧ (knownLength bytes = some bytes.length → crc))

/-- CONTENTION_STARTED (R6, R12, R105): in IDLE with a candidate presented and nothing staged, the LIU copies the frame built
from the state as it stands, drives the start element and enters CONTENDING, and TXS takes the staging record of R105; no
slot, entry, flag or timer changes. The frame's contention value is 32 × urgency + own address. -/
def Obligations.ContentionStartedStagesPresentedCandidate : Prop :=
  ∀ s : State, s.OnLine .idle → s.txs.staged = none →
    let stages (u : BitVec 2) (f : FrameBody) (r : StagingRecord) : Prop :=
      Leaves .contentionStarted s
        { s with
          liu := { s.liu with
            line := .contending
            staging := some ⟨BitVec.ofNat 7 (32 * u.toNat + s.control.ownAddr.toNat), frameBytes f⟩
            matched := 0
            ltxLow := true }
          txs := { s.txs with staged := some r } }
    let own := s.control.epoch
    let carried (p : Station) : Carried := ⟨(s.peer p).sessionCount, (s.peer p).expected, (s.peer p).grantLimit⟩
    (s.txs.presented = some .hello → stages 3 (.hello own false) (.hello own))
    ∧ (s.txs.presented = some .leavingHello → stages 0 (.hello own true) (.leavingHello own))
    ∧ (∀ k p, s.txs.presented = some (.control k p) →
        stages 0 (.control k (stationAddress p) own (s.peer p).peerEpoch (s.peer p).expected (s.peer p).grantLimit)
          (.control k p (carried p)))
    ∧ (∀ h p m, s.txs.presented = some (.firstSend h p) → s.txs.slot h = .queued m →
        stages m.urgency
          (.data (stationAddress p) own (s.peer p).peerEpoch (s.peer p).nextTxSeq (s.peer p).expected (s.peer p).grantLimit
            m.payload)
          (.firstSend (some h) p (s.peer p).nextTxSeq (carried p)))
    ∧ (∀ h p m q marked, s.txs.presented = some (.resend h p) → s.txs.slot h = .sent m q marked →
        stages m.urgency
          (.data (stationAddress p) own (s.peer p).peerEpoch q (s.peer p).expected (s.peer p).grantLimit m.payload)
          (.resend (some h) p q (carried p)))
    ∧ ∀ h m tag, s.txs.presented = some (.group h) → s.txs.slot h = .queued m → m.target = .group tag →
        stages m.urgency (.group tag m.payload) (.group (some h))

/-- What may go to the line (R100, R102, R131): from a lawful state, whichever event starts a frame (CONTENTION_STARTED, a
SENT_OK or a good frame whose line idle is taken first), new DATA goes only to a LINKED peer in RUNNING with a seq 1 to 15
below the limit held, and OPEN, DATA and GROUP frames are started only under the level SOUND in force at their staging: for a
SENT_OK that is the level before its report, and for a good frame the level before its report or after it, as the order puts
the staging. No other command starts a frame. A bit time in IDLE stages under the level it finds (that it stages is log entry
24's reading), and a bit time in any other line state starts a frame only as the row it completes does; no edge of SCLK and no
byte starts one. -/
def Obligations.StartedFramesKeepCreditAndLevel : Prop :=
  ∀ s t : State, s.Lawful → s.inReset = false →
    let starts (sound : Prop) : Prop :=
      (∀ h p q c, t.txs.staged = some (.firstSend h p q c) →
        s.control.opState = .running ∧ (s.peer p).state = .linked
          ∧ 1 ≤ ((s.peer p).heldLimit - q).toNat ∧ ((s.peer p).heldLimit - q).toNat ≤ 15)
      ∧ (¬sound → ∀ r, t.txs.staged = some r →
          (∃ e, r = .hello e) ∨ (∃ e, r = .leavingHello e) ∨ ∃ k p c, r = .control k p c ∧ k ≠ .openFrame)
    (exec .contentionStarted s = .next t → s.txs.staged = none → starts (s.hmn.level = .sound))
    ∧ (∀ first r, s.txs.staged = some r → exec (.sentOk first) s = .next t → starts (s.hmn.level = .sound))
    ∧ (∀ order contention bytes, s.OnLine .receiving → exec (.goodFrame order contention bytes) s = .next t →
        starts (order = .idleBeforeScore ∧ s.hmn.level = .sound ∨ order = .idleAfterScore ∧ t.hmn.level = .sound))
    ∧ (∀ recessive order, takeInput (.bitTime recessive order) s = .next t →
        (s.enabled = true → s.liu.line = .receiving →
          starts (order = .idleBeforeScore ∧ s.hmn.level = .sound ∨ order = .idleAfterScore ∧ t.hmn.level = .sound))
        ∧ (s.liu.line ≠ .receiving →
            t.txs.staged = s.txs.staged ∧ t.liu.staging = s.liu.staging ∨ starts (s.hmn.level = .sound)))
    ∧ (∀ i, (∀ recessive order, i ≠ .bitTime recessive order) → takeInput i s = .next t → s.txs.staged = none →
        t.txs.staged = none)
    ∧ ∀ c, c ≠ .contentionStarted → (∀ first, c ≠ .sentOk first) → (∀ o k b, c ≠ .goodFrame o k b) →
        exec c s = .next t → s.txs.staged = none → t.txs.staged = none

/-- LOST_CONTENTION at a bit sent recessive that has not yet been read back (R7, R110, R111): the LIU is receiving with the
bits before the lost one and a dominant 0 kept, its staging buffer and the staging record are empty, CONTENTION_LOSSES is
counted, and no slot, flag or score changes, except that in LEAVING a staged GROUP completes CANCELLED. Contention is won by
the lowest value (R5): against a lower value on the line, a sender loses at the one bit where it sends recessive and the line
carries dominant with every earlier bit equal; and the value it then assembles, from the bits it kept and the winner's
remaining bits, is the winner's. -/
def Obligations.LostContentionReturnsToReception : Prop :=
  (∀ (s : State) (bit : Fin 7) (f : StagedFrame), s.OnLine .contending → s.liu.staging = some f →
    f.contention.getLsbD bit.val = true → s.liu.matched ≤ 7 - bit.val →
    let lost (txs : Txs) : State :=
      { s with
        liu :=
          { line := .receiving
            idleCount := 0
            staging := none
            matched := 0
            assembly := ⟨(contentionBits f.contention).take (6 - bit.val) ++ [false], [], []⟩
            ltxLow := false }
        txs := { txs with staged := none }
        hpt := { s.hpt with
          counters := { s.hpt.counters with contentionLosses := min 65535 (s.hpt.counters.contentionLosses + 1) } } }
    (s.control.opState ≠ .leaving ∨ (∀ h, s.txs.staged ≠ some (.group (some h))) →
      Leaves (.lostContention bit) s (lost s.txs))
    ∧ ∀ h m, s.control.opState = .leaving → s.txs.staged = some (.group (some h)) → s.txs.slot h = .queued m →
        Leaves (.lostContention bit) s
          (lost
            { s.txs with
              slots := s.txs.slots.set h (.complete m none .cancelled)
              order := s.txs.order.erase h
              completions := s.txs.completions ++ [h] }))
  ∧ ∀ mine winner : BitVec 7, winner.toNat < mine.toNat →
      ∃ bit : Fin 7, mine.getLsbD bit.val = true ∧ winner.getLsbD bit.val = false
        ∧ (∀ j, bit.val < j → mine.getLsbD j = winner.getLsbD j)
        ∧ assembledContention (keptBits mine bit) winner = winner

/-- READBACK_FAULT at an element not yet read back (R8, R110, R134): the LIU releases the line and recovers, its staging buffer and the staging record are
emptied, READBACK_FAULTS is counted, the fault is reported to HMN, and the report to TXS is taken before or after it as the
operand says: with HMN first, an entry into DETACHED still finds the frame staged. In LEAVING a staged GROUP completes
CANCELLED. -/
def Obligations.ReadbackFaultAbortsTheStagedFrame : Prop :=
  ∀ (s : State) (element : Nat) (f : StagedFrame), s.inReset = false → s.isTransmitting = true → s.liu.staging = some f →
    s.liu.matched ≤ element → (s.liu.line = .sending → 8 ≤ element) →
    (∃ recessive, (frameElements f.contention f.bytes)[element]? = some recessive ∧ (8 ≤ element ∨ recessive = false)) →
    let faulted : State :=
      { s with
        liu := { s.liu with line := .recovering, idleCount := 0, ltxLow := false, staging := none, matched := 0 }
        hpt := { s.hpt with
          counters := { s.hpt.counters with readbackFaults := min 65535 (s.hpt.counters.readbackFaults + 1) } } }
    let abort (v : State) : State :=
      { v with
        txs := { (if v.control.opState = .leaving then v.txs.cancelStagedGroup else v.txs) with staged := none } }
    Leaves (.readbackFault element true) s (abort (faulted.healthReport .readbackFault))
      ∧ Leaves (.readbackFault element false) s ((abort faulted).healthReport .readbackFault)

/-- The staged frame on the line, bit time by bit time (R1, R6, R7, R8, R10, R22). With a candidate presented in IDLE the bit
time opens with its staging and reads back the start element; that the LIU stages at the next bit boundary and does not let
it pass, as the 'may' of R3 allows, is the model's reading (DEDUCED, unsafe, log entry 24). In CONTENDING and SENDING an element read back as sent goes on
to the next, LTX low where that one is dominant, in SENDING from the eighth matched element on, and at the last element of the
end marker it is SENT_OK; a contention bit sent recessive and read dominant is LOST_CONTENTION at that bit; a dominant element
of the contention field read recessive, and any difference in SENDING, is READBACK_FAULT at that element. The idle count
follows the samples (R3). -/
def Obligations.BitTimesDriveTheStagedFrame : Prop :=
  (∀ (s : State) (recessive : Bool) (order : FrameOrder) (f : StagedFrame) (sent : Bool), s.inReset = false →
    s.isTransmitting = true → s.liu.staging = some f → (frameElements f.contention f.bytes)[s.liu.matched]? = some sent →
    let elements := frameElements f.contention f.bytes
    let n := s.liu.matched
    (recessive = sent → n + 1 < elements.length →
      Takes (.bitTime recessive order) s
        { s with liu := { s.liu with
            line := if 8 ≤ n + 1 then .sending else s.liu.line
            matched := n + 1
            ltxLow := elements[n + 1]? == some false
            idleCount := if recessive then min 11 (s.liu.idleCount + 1) else 0 } })
    ∧ (recessive = sent → n + 1 = elements.length →
        TakesAs (.bitTime recessive order) s (.sentOk (order == .idleBeforeScore)))
    ∧ (recessive = false → sent = true → s.liu.line = .contending → ∀ bit : Fin 7, n + bit.val = 7 →
        TakesAs (.bitTime recessive order) s (.lostContention bit))
    ∧ (recessive ≠ sent → (s.liu.line = .contending ∧ sent = false ∨ s.liu.line = .sending ∧ 8 ≤ n) →
        TakesAs (.bitTime recessive order) s (.readbackFault n (order != .idleBeforeScore))))
  ∧ ∀ (s v : State) (recessive : Bool) (order : FrameOrder), s.OnLine .idle → exec .contentionStarted s = .next v →
      v.liu.line = .contending →
      (recessive = false →
        Takes (.bitTime recessive order) s
          { v with liu := { v.liu with
              matched := 1, ltxLow := v.liu.elements[1]? == some false, idleCount := 0 } })
      ∧ (recessive = true → ∀ u, Leaves (.readbackFault 0 (order != .idleBeforeScore)) v u →
          Takes (.bitTime recessive order) s u)

/-- SENT_OK of a first send (R22, R54, R107): FRAMES_SENT is counted and SENT_OK reported to HMN; if the record still names a
QUEUED slot of the peer and the peer's sessionCount stands, the slot becomes SENT with the staged seq, marked if the peer has
another SENT slot that is marked (R54 step 4, R64), nextTxSeq advances and the ack timer starts if it was stopped; in every other case no slot and nothing of the
send direction changes. The carrying rule (R61) is applied in both, and the staging record is cleared. With `stagingFirst`
TXS's next choice and its staging come before HMN's report (R131); what they leave is in FramesNotForThisStationOnlyCount. -/
def Obligations.FirstSendOutcome : Prop :=
  (∀ (t : Txs) (p : Station), t.SlotLaw →
    (t.anyMarked p = true ↔ ∃ h m q, t.slot h = .sent m q true ∧ m.target = .data p))
  ∧   (∀ s : State, s.sentCounted =
    { s with
      liu := { s.liu with line := .idle, idleCount := 11, staging := none, matched := 0, ltxLow := false }
      hpt := { s.hpt with counters := { s.hpt.counters with framesSent := min 65535 (s.hpt.counters.framesSent + 1) } } })
  ∧ ∀ (s : State) (h : Option Handle) (p : Station) (q : Seq) (c : Carried), s.Sending (.firstSend h p q c) →
    let stands (v : State) (h : Handle) (m : Message) : Prop :=
      v.txs.slot h = .queued m ∧ m.target = .data p ∧ (v.peer p).sessionCount = c.sessionCount
    let done (v : State) (txs : Txs) (e : PeerEntry) : State :=
      { v with txs := { txs with staged := none }, pen := { v.pen with peers := v.pen.peers.set p (e.carry c) } }
    let sent (v : State) (h : Handle) (m : Message) : State :=
      done v { v.txs with slots := v.txs.slots.set h (.sent m q (v.txs.anyMarked p)) }
        { v.peer p with
          nextTxSeq := (v.peer p).nextTxSeq + 1
          ackTimer := if (v.peer p).ackTimer = 0 then v.cfg.ackTimeout else (v.peer p).ackTimer }
    let first := s.sentCounted.healthReport .sentOk
    (∀ h' m, h = some h' →
      (stands first h' m → Leaves (.sentOk false) s (sent first h' m))
      ∧ (stands s.sentCounted h' m →
          Leaves (.sentOk true) s ((sent s.sentCounted h' m).chooseAndStage.healthReport .sentOk)))
    ∧ ((∀ h' m, h = some h' → ¬stands first h' m) → Leaves (.sentOk false) s (done first first.txs (first.peer p)))
    ∧ ((∀ h' m, h = some h' → ¬stands s.sentCounted h' m) →
        Leaves (.sentOk true) s
          ((done s.sentCounted s.sentCounted.txs (s.sentCounted.peer p)).chooseAndStage.healthReport .sentOk))

/-- SENT_OK of a resend and of a GROUP (R65, R108, R123). A resend counts RETRANSMISSIONS and applies the carrying rule, and
its slot's mark is cleared if the slot is still SENT for the peer with the staged seq and the sessionCount stands; a GROUP
still QUEUED in the slot the record names completes SENT; no other slot changes. With `stagingFirst` the staging of TXS's next
choice comes before HMN's report (R131); what it leaves is in FramesNotForThisStationOnlyCount. -/
def Obligations.ResendAndGroupOutcome : Prop :=
  (∀ (s : State) (h : Option Handle) (p : Station) (q : Seq) (c : Carried), s.Sending (.resend h p q c) →
    let stands (v : State) (h : Handle) : Prop :=
      ∃ m marked, v.txs.slot h = .sent m q marked ∧ m.target = .data p ∧ (v.peer p).sessionCount = c.sessionCount
    let done (v : State) (slots : Vector Slot 24) : State :=
      { v with
        txs := { v.txs with slots := slots, staged := none }
        pen := { v.pen with peers := v.pen.peers.set p ((v.peer p).carry c) }
        hpt := { v.hpt with
          counters := { v.hpt.counters with retransmissions := min 65535 (v.hpt.counters.retransmissions + 1) } } }
    let result (v w : State) : Prop :=
      (∀ h', h = some h' → stands v h' → w = done v (v.txs.slots.set h' ((v.txs.slot h').withMark false)))
      ∧ ((∀ h', h = some h' → ¬stands v h') → w = done v v.txs.slots)
    (∀ w, result (s.sentCounted.healthReport .sentOk) w → Leaves (.sentOk false) s w)
    ∧ ∀ w, result s.sentCounted w → Leaves (.sentOk true) s (w.chooseAndStage.healthReport .sentOk))
  ∧ ∀ (s : State) (h : Option Handle), s.Sending (.group h) →
      let result (v w : State) : Prop :=
        (∀ h' m, h = some h' → v.txs.slot h' = .queued m →
          w = { v with
                txs := { v.txs with
                  slots := v.txs.slots.set h' (.complete m none .sent)
                  order := v.txs.order.erase h'
                  completions := v.txs.completions ++ [h']
                  staged := none } })
        ∧ ((∀ h' m, h = some h' → v.txs.slot h' ≠ .queued m) → w = { v with txs := { v.txs with staged := none } })
      (∀ w, result (s.sentCounted.healthReport .sentOk) w → Leaves (.sentOk false) s w)
      ∧ ∀ w, result s.sentCounted w → Leaves (.sentOk true) s (w.chooseAndStage.healthReport .sentOk)

/-- SENT_OK of a control frame or a HELLO (R35, R40, R61, R104, R109): an OPEN clears openPending and an ACCEPT acceptPending
if the peer's sessionCount stands, every control frame applies the carrying rule and moves the control pointer to the peer,
and a HELLO clears hello-due if the epoch it carried is still the current one; the staging record is cleared. With
`stagingFirst` the staging of TXS's next choice comes before HMN's report (R131); what it leaves is in
FramesNotForThisStationOnlyCount. -/
def Obligations.ControlAndHelloOutcome : Prop :=
  (∀ (s : State) (k : ControlKind) (p : Station) (c : Carried), s.Sending (.control k p c) →
    let done (v : State) : State :=
      let e := v.peer p
      let same := e.sessionCount = c.sessionCount
      let cleared := { e with
        openPending := e.openPending && !(decide (same ∧ k = ControlKind.openFrame))
        acceptPending := e.acceptPending && !(decide (same ∧ k = ControlKind.acceptFrame)) }
      { v with
        txs := { v.txs with staged := none, controlPtr := p }
        pen := { v.pen with peers := v.pen.peers.set p (cleared.carry c) } }
    Leaves (.sentOk false) s (done (s.sentCounted.healthReport .sentOk))
      ∧ Leaves (.sentOk true) s ((done s.sentCounted).chooseAndStage.healthReport .sentOk))
  ∧ ∀ (s : State) (e : Epoch), s.Sending (.hello e) →
      let done (v : State) : State :=
        { v with
          txs := { v.txs with staged := none }
          pen := { v.pen with helloDue := v.pen.helloDue && !(decide (e = v.control.epoch)) } }
      Leaves (.sentOk false) s (done (s.sentCounted.healthReport .sentOk))
        ∧ Leaves (.sentOk true) s ((done s.sentCounted).chooseAndStage.healthReport .sentOk)

/-- The end of LEAVING (R152, R153): by the SENT_OK of the LEAVING HELLO, in either order of its reports, or by the leave
limit. A GROUP staged at the limit completes CANCELLED, the LIU is disabled with both buffers and the staging record emptied,
the leave limit stops, the LEAVING HELLO is no longer due, the epoch advances with 255 followed by 1, the part is READY, and
LEAVE_DONE is raised with its timed-out flag after the completion; nothing else changes. That the leave limit expires in its
last TU is the model's (DESIGN CHOICE, log entry 5). -/
def Obligations.LeavingEndsInReady : Prop :=
  let ended (timedOut : Bool) (v : State) : State :=
    State.raise (.leaveDone timedOut)
      { v with
        liu := { line := .idle, idleCount := 0, staging := none, matched := 0, assembly := .empty, ltxLow := false }
        txs := { v.txs with staged := none, presented := none }
        control := { v.control with
          leaveLimit := 0
          leavingHelloDue := false
          epoch := if v.control.epoch = 255 then 1 else v.control.epoch + 1
          opState := .ready } }
  (∀ (s : State) (e : Epoch) (stagingFirst : Bool), s.Sending (.leavingHello e) → s.control.opState = .leaving →
    Leaves (.sentOk stagingFirst) s (ended false s.sentCounted))
  ∧ (∀ s : State, s.inReset = false → s.control.opState = .leaving → s.control.leaveLimit = 1 →
      (∀ h, s.txs.staged ≠ some (.group (some h))) → Leaves .leaveLimitExpiry s (ended true s))
  ∧ ∀ (s : State) (h : Handle) (m : Message), s.inReset = false → s.control.opState = .leaving → s.control.leaveLimit = 1 →
      s.txs.staged = some (.group (some h)) → s.txs.slot h = .queued m →
      Leaves .leaveLimitExpiry s
        (ended true
          { s with
            txs := { s.txs with
              slots := s.txs.slots.set h (.complete m none .cancelled)
              order := s.txs.order.erase h
              completions := s.txs.completions ++ [h] } })

/-! ### Health -/

/-- A report to HMN (R126 to R130, R132): outside RUNNING it changes nothing; in RUNNING the score moves by the report's
weight within 0 to 255, and, if it moved, the level follows R129 with its HEALTH_CHANGED and nothing else changes; at 192 or
more the part enters DETACHED. -/
def Obligations.HealthReportsMoveScoreAndLevel : Prop :=
  ∀ (s : State) (r : HealthReport) (score : Nat),
    score = (match r with
      | .readbackFault => min 255 (s.hmn.score + 8)
      | .addressClash => min 255 (s.hmn.score + 8)
      | .checkError => min 255 (s.hmn.score + 1)
      | .sentOk => s.hmn.score - 2
      | .goodFrame => s.hmn.score - 1) →
    let scored : State := { s with hmn := { s.hmn with score := score } }
    (s.control.opState ≠ .running ∨ score = s.hmn.score → s.healthReport r = s)
    ∧ (s.control.opState = .running → score ≠ s.hmn.score →
        (192 ≤ score → s.healthReport r = scored.enterDetached)
        ∧ (score < 192 → s.hmn.level = .sound → 96 ≤ score →
            s.healthReport r = State.raise (.healthChanged .guarded) { scored with hmn := { scored.hmn with level := .guarded } })
        ∧ (score < 64 → s.hmn.level = .guarded →
            s.healthReport r = State.raise (.healthChanged .sound) { scored with hmn := { scored.hmn with level := .sound } })
        ∧ ((s.hmn.level = .sound ∧ score < 96 ∨ s.hmn.level = .guarded ∧ 64 ≤ score ∧ score < 192) →
            s.healthReport r = scored))

/-- Entry into DETACHED (R133): the operating state, then a session end for every SYNCING or LINKED peer in ascending address
and every entry but SELF ABSENT, then the hello timer, the holdoff, and HEALTH_CHANGED after the completions. The LIU, the
store, the order of the GROUP slots, the pointers, the score, the level and the epoch stand. -/
def Obligations.DetachmentEndsEverySession : Prop :=
  ∀ s : State,
    s.enterDetached =
      State.raise (.healthChanged .detached)
        { s with
          control := { s.control with opState := .detached }
          hmn := { s.hmn with holdoff := s.cfg.holdoff }
          txs := stations.foldl
            (fun t p => if (s.peer p).isLive then t.endSession p (s.peer p).oldestUnacked else t) s.txs
          pen :=
            { peers := Vector.ofFn fun (p : Station) =>
                let e : PeerEntry := s.peer p
                if e.isLive then { PeerEntry.absentEntry with sessionCount := e.sessionCount + 1 }
                else if e.state = AssocState.lost then { e with state := .absent, peerEpoch := 0 }
                else e
              helloTimer := 0
              helloDue := false } }

/-! ### Sessions -/

/-- A session restart (R30): the SENT slots of the peer complete INDOUBT in sequence order from the oldest unacknowledged
seq, then a staged QUEUED DATA slot INDOUBT, and its other QUEUED slots stand; sessionCount advances, the reservation is kept
as the new grantLimit over an expected of 0, the other session fields and the carried flags are cleared, and a reservation
above 0 is made due as a grant. -/
def Obligations.SessionRestartCompletesInOrder : Prop :=
  ∀ (s : State) (p : Station), s.txs.SlotLaw →
    let old := (s.peer p).oldestUnacked
    let sent := (List.range 64).flatMap fun k =>
      s.txs.order.filter fun h => (s.txs.slot h).isSentAs p (old + BitVec.ofNat 6 k)
    let staged := (s.txs.order.filter fun h => (s.txs.slot h).isQueuedTo p && s.txs.stagedHandle == some h)
    let r := (s.peer p).grantLimit - (s.peer p).expected
    let t := s.sessionRestart p
    t.txs.completions = s.txs.completions ++ sent ++ staged
      ∧ t.txs.order = s.txs.order.filter (fun h => !(sent ++ staged).contains h)
      ∧ (∀ h m q marked, s.txs.slot h = .sent m q marked → h ∈ sent → t.txs.slot h = .complete m (some q) .inDoubt)
      ∧ (∀ h m, s.txs.slot h = .queued m → h ∈ staged → t.txs.slot h = .complete m none .inDoubt)
      ∧ (∀ h, h ∉ sent ++ staged → t.txs.slot h = s.txs.slot h)
      ∧ (∀ h, h ∈ sent ↔ (s.txs.slot h).isSentTo p = true)
      ∧ t = { s with
          txs := { s.txs with slots := t.txs.slots, order := t.txs.order, completions := t.txs.completions }
          pen := { s.pen with
            peers := s.pen.peers.set p
              { s.peer p with
                sessionCount := (s.peer p).sessionCount + 1
                grantLimit := r
                nextTxSeq := 0
                oldestUnacked := 0
                heldLimit := 0
                expected := 0
                retryCount := 0
                ackTimer := 0
                ackPending := false
                grantPending := decide (r ≠ 0)
                creditDue := decide (r ≠ 0 ∧ s.cfg.ackDelay = 0)
                ackDelayTimer := if r ≠ 0 then s.cfg.ackDelay else 0 } } }

/-- A session end (R31): the SENT slots of the peer complete INDOUBT in sequence order, then a staged QUEUED DATA slot
INDOUBT, then its other QUEUED DATA slots PEER_GONE in submission order; sessionCount advances, the reservation is given up,
and every session field, flag and timer of the entry is cleared. -/
def Obligations.SessionEndCompletesInOrder : Prop :=
  ∀ (s : State) (p : Station) (state : AssocState) (peerEpoch : Epoch), s.txs.SlotLaw →
    let old := (s.peer p).oldestUnacked
    let sent := (List.range 64).flatMap fun k =>
      s.txs.order.filter fun h => (s.txs.slot h).isSentAs p (old + BitVec.ofNat 6 k)
    let staged := (s.txs.order.filter fun h => (s.txs.slot h).isQueuedTo p && s.txs.stagedHandle == some h)
    let gone := (s.txs.order.filter fun h => (s.txs.slot h).isQueuedTo p && s.txs.stagedHandle != some h)
    let t := s.sessionEnd p state peerEpoch
    t.txs.completions = s.txs.completions ++ sent ++ staged ++ gone
      ∧ t.txs.order = s.txs.order.filter (fun h => !(sent ++ staged ++ gone).contains h)
      ∧ (∀ h m q marked, s.txs.slot h = .sent m q marked → h ∈ sent → t.txs.slot h = .complete m (some q) .inDoubt)
      ∧ (∀ h m, s.txs.slot h = .queued m → h ∈ staged → t.txs.slot h = .complete m none .inDoubt)
      ∧ (∀ h m, s.txs.slot h = .queued m → h ∈ gone → t.txs.slot h = .complete m none .peerGone)
      ∧ (∀ h, h ∉ sent ++ staged ++ gone → t.txs.slot h = s.txs.slot h)
      ∧ (∀ h, h ∈ sent ↔ (s.txs.slot h).isSentTo p = true)
      ∧ t = { s with
          txs := { s.txs with slots := t.txs.slots, order := t.txs.order, completions := t.txs.completions }
          pen := { s.pen with
            peers := s.pen.peers.set p
              { PeerEntry.absentEntry with
                state := state, peerEpoch := peerEpoch, sessionCount := (s.peer p).sessionCount + 1 } } }

/-! ### Acknowledgement, credit and the store -/

/-- Ack and limit processing (R49, R50, R51, R53): an ack outside the outstanding span and its end, or a limit more than 15
above the ack, makes the frame stale; otherwise an ack that is progress completes the SENT slots from oldestUnacked up to it
DELIVERED in sequence order, moves oldestUnacked, clears retryCount and restarts or stops the ack timer, and the limit is
taken unless it lies behind the one held. Nothing else changes. -/
def Obligations.AckAndLimitAreJudgedThenApplied : Prop :=
  ∀ (s : State) (p : Station) (a l : Seq), s.txs.SlotLaw →
    let e := s.peer p
    let valid := (a - e.oldestUnacked).toNat ≤ (e.nextTxSeq - e.oldestUnacked).toNat ∧ (l - a).toNat ≤ 15
    let held := if (e.heldLimit - a).toNat ≤ (l - a).toNat then l else e.heldLimit
    let acked := (List.range (a - e.oldestUnacked).toNat).flatMap fun k =>
      s.txs.order.filter fun h => (s.txs.slot h).isSentAs p (e.oldestUnacked + BitVec.ofNat 6 k)
    (¬valid → s.takeAckLimit p a l = none)
    ∧ (valid → a = e.oldestUnacked →
        s.takeAckLimit p a l
          = some { s with pen := { s.pen with peers := s.pen.peers.set p { e with heldLimit := held } } })
    ∧ (valid → a ≠ e.oldestUnacked →
        ∃ t, s.takeAckLimit p a l = some t
          ∧ t.txs.completions = s.txs.completions ++ acked
          ∧ t.txs.order = s.txs.order.filter (fun h => !acked.contains h)
          ∧ (∀ h m q marked, s.txs.slot h = .sent m q marked → h ∈ acked → t.txs.slot h = .complete m (some q) .delivered)
          ∧ (∀ h, h ∉ acked → t.txs.slot h = s.txs.slot h)
          ∧ t = { s with
              txs := { s.txs with slots := t.txs.slots, order := t.txs.order, completions := t.txs.completions }
              pen := { s.pen with
                peers := s.pen.peers.set p
                  { e with
                    oldestUnacked := a
                    retryCount := 0
                    ackTimer := if ∃ h, (s.txs.slot h).isSentTo p = true ∧ h ∉ acked then s.cfg.ackTimeout else 0
                    heldLimit := held } } })

/-- Grants (R73, R77, R78, R79). The uncommitted records are 48 less those stored, those reserved and the group headroom still
open, 0 in the model where these exceed 48 (DEDUCED, log entry 14). One grant goes to the first eligible peer after the rotation pointer, the pointer's own
address last, and is made only while a record is uncommitted. A grant attempt ends with nothing uncommitted or no peer
eligible, what it grants is what it takes from the uncommitted records, no reservation passes quota, only eligible peers and
only their grant fields change, and outside RUNNING it changes nothing. -/
def Obligations.GrantsServeEligiblePeersInRotation : Prop :=
  (∀ s : State, s.uncommitted =
      48 - (s.mst.stored + (s.pen.peers.toList.map fun e => (e.grantLimit - e.expected).toNat).sum
        + (s.cfg.headroom - s.mst.storedGroup)))
  ∧ (∀ s : State,
    let eligible (p : Station) : Prop :=
      s.control.opState = .running ∧ ((s.peer p).state = .syncing ∨ (s.peer p).state = .linked)
        ∧ ((s.peer p).grantLimit - (s.peer p).expected).toNat < s.cfg.quota
    (∀ p, s.nextGrant = some p ↔
      0 < s.uncommitted ∧ eligible p
        ∧ ∀ q, eligible q → placeAfter s.mst.rotation p ≤ placeAfter s.mst.rotation q)
    ∧ ∀ p, s.grantTo p =
        { s with
          mst := { s.mst with rotation := p }
          pen := { s.pen with
            peers := s.pen.peers.set p
              (let e : PeerEntry := s.peer p
               let started := e.grantPending = false ∧ e.ackDelayTimer = 0
               { e with
                 grantLimit := e.grantLimit + 1
                 grantPending := true
                 creditDue := e.creditDue || decide (started ∧ s.cfg.ackDelay = 0)
                 ackDelayTimer := if started then s.cfg.ackDelay else e.ackDelayTimer }) } })
  ∧ ∀ s : State, s.cfg.quota ≤ 15 →
    let t := s.grantAttempt
    (t.uncommitted = 0 ∨ ∀ p, t.eligible p = false)
      ∧ t.uncommitted + t.pen.reserved = s.uncommitted + s.pen.reserved
      ∧ (∀ p, (s.peer p).reservation ≤ (t.peer p).reservation)
      ∧ (∀ p, (t.peer p).reservation ≤ max (s.peer p).reservation s.cfg.quota)
      ∧ (∀ p, s.eligible p = false → t.peer p = s.peer p)
      ∧ (∀ p, t.peer p =
          { s.peer p with
            grantLimit := (t.peer p).grantLimit
            grantPending := (t.peer p).grantPending
            creditDue := (t.peer p).creditDue
            ackDelayTimer := (t.peer p).ackDelayTimer })
      ∧ t = { s with
          mst := { s.mst with rotation := t.mst.rotation }
          pen := { s.pen with peers := t.pen.peers } }
      ∧ (s.control.opState ≠ .running → t = s)

/-- The accepting entry of a tag (R116) is the enabled filter entry with the lowest index whose masked bits the tag equals,
and a tag with no such entry is filtered; the index of the accepting entry is stored with the message. -/
def Obligations.AcceptingEntryIsLowestMatch : Prop :=
  (∀ (filters : Vector FilterEntry 8) (tag : Byte),
    let matches' (i : Fin 8) : Prop := filters[i].enabled = true ∧ (tag ^^^ filters[i].value) &&& filters[i].mask = 0
    (∀ i, acceptingEntry filters tag = some i ↔ matches' i ∧ ∀ j, matches' j → i ≤ j)
    ∧ (acceptingEntry filters tag = none ↔ ∀ i, ¬matches' i))
  ∧ ∀ (s : State) (p : Station) (tag : Byte) (payload : List Byte) (i : Fin 8),
      acceptingEntry s.cfg.filters tag = some i → s.mst.storedGroup < s.cfg.headroom →
      (s.groupReceived p tag payload).mst.delivery = s.mst.delivery ++ [⟨p, .group i tag, payload, s.stamp⟩]

/-! ### Received frames -/

/-- Good frames that reach no peer entry (R19, R20, R21, R44): in DETACHED and LEAVING, or with source 31, a frame is counted
and reported to HMN and taken no further; one bearing the own address is a clash, counted in CHECK_ERRORS, and in RUNNING
raises ADDRESS_CLASH before its report to HMN; one addressed to another station only refreshes the silence timer of a SYNCING
or LINKED peer whose epoch it bears. The line idle that the frame's end reports is taken in the order given (R98, R131; for a
clash the orders are the model's reading, DEDUCED, log entry 11, at a clash that takes the score to 192 too, DESIGN CHOICE,
log entry 25): taken first, TXS chooses and the LIU stages that choice as
at CONTENTION_STARTED, and with a frame staged or the line not idle it changes nothing. That the assembly buffer keeps the
frame handed over is the model's (DEDUCED, log entry 8). -/
def Obligations.FramesNotForThisStationOnlyCount : Prop :=
  (∀ (s : State) (order : FrameOrder) (contention : BitVec 7) (bytes : List Byte) (source : Address) (f : FrameBody),
    s.OnLine .receiving →
    let c := assembledContention s.liu.assembly.bits contention
    let phase := assembledBytes s.liu.assembly bytes
    receiveFrame c phase = some (source, f) →
    let idle : Liu :=
      { s.liu with line := .idle, idleCount := 11, ltxLow := false, assembly := ⟨contentionBits c, phase, []⟩ }
    let clash : State :=
      { s with
        liu := idle
        hpt := { s.hpt with
          counters := { s.hpt.counters with checkErrors := min 65535 (s.hpt.counters.checkErrors + 1) } } }
    let reported (v : State) : State :=
      if v.control.opState = .running then (v.raise .addressClash).healthReport .addressClash else v
    let counted : State :=
      { s with
        liu := idle
        hpt := { s.hpt with
          counters := { s.hpt.counters with framesReceived := min 65535 (s.hpt.counters.framesReceived + 1) } } }
    (source ≠ s.control.ownAddr → s.control.opState ≠ .running ∨ source = 31 →
      Leaves (.goodFrame order contention bytes) s (s.beforeRecord order contention bytes))
    ∧ (source = s.control.ownAddr →
        Leaves (.goodFrame order contention bytes) s
          (match order with
           | .recordFirst => reported clash
           | .idleAfterScore => (reported clash).chooseAndStage
           | .idleBeforeScore => reported clash.chooseAndStage))
    ∧ s.beforeRecord order contention bytes =
        match order with
        | .recordFirst => counted.healthReport .goodFrame
        | .idleAfterScore => (counted.healthReport .goodFrame).chooseAndStage
        | .idleBeforeScore => counted.chooseAndStage.healthReport .goodFrame)
  ∧ (∀ v : State, v.inReset = false →
      (v.enabled = true → v.liu.line = .idle → v.txs.staged = none →
        Leaves .contentionStarted { v with txs := { v.txs with presented := v.choose } } v.chooseAndStage)
      ∧ (v.enabled = false ∨ v.liu.line ≠ .idle ∨ v.txs.staged ≠ none → v.chooseAndStage = v))
  ∧ ∀ (order : FrameOrder) (contention : BitVec 7) (bytes : List Byte) (p : Station) (f : FrameBody) (s u : State)
      (dest : Address) (srcEpoch : Epoch),
      Arrives order contention bytes p f s u → dest ≠ u.control.ownAddr →
      ((∃ k de a l, f = .control k dest srcEpoch de a l) ∨ ∃ de q a l payload, f = .data dest srcEpoch de q a l payload) →
      (srcEpoch ≠ 0 ∧ srcEpoch = (u.peer p).peerEpoch ∧ (u.peer p).isLive = true →
        Leaves (.goodFrame order contention bytes) s
          { u with pen := { u.pen with
              peers := u.pen.peers.set p
                { u.peer p with silenceTimer := u.cfg.silenceMultiple * u.cfg.helloInterval } } })
      ∧ (¬(srcEpoch ≠ 0 ∧ srcEpoch = (u.peer p).peerEpoch ∧ (u.peer p).isLive = true) →
          Leaves (.goodFrame order contention bytes) s u)

/-- HELLO frames (R28, R32, R33, R34, R44): epoch 0 is stale; without the LEAVING flag an ABSENT or LOST peer, or one whose
epoch differs, is resynchronised, and one whose epoch matches is only refreshed; with the flag a SYNCING or LINKED peer has
its session ended, becomes ABSENT and raises PEER_LEFT, and a LOST one becomes ABSENT without a notice. -/
def Obligations.HelloResynchronisesOrRefreshes : Prop :=
  ∀ (order : FrameOrder) (contention : BitVec 7) (bytes : List Byte) (p : Station) (epoch : Epoch) (leaving : Bool)
    (s u : State), Arrives order contention bytes p (.hello epoch leaving) s u →
    let leaves (v : State) : Prop := Leaves (.goodFrame order contention bytes) s v
    let limit := u.cfg.silenceMultiple * u.cfg.helloInterval
    let restarted : State :=
      match (u.peer p).state with
      | .linked => (u.sessionRestart p).raise (.peerRestarted p)
      | .syncing => u.sessionRestart p
      | _ => u
    let resync : State := State.grantAttempt
      { restarted with
        pen := { restarted.pen with
          peers := restarted.pen.peers.set p
            { restarted.peer p with
              peerEpoch := epoch
              state := .syncing
              openPending := true
              acceptPending := false
              joinTimer := u.cfg.ackTimeout
              silenceTimer := limit } } }
    (epoch = 0 →
      leaves { u with hpt := { u.hpt with
        counters := { u.hpt.counters with staleFrames := min 65535 (u.hpt.counters.staleFrames + 1) } } })
    ∧ (epoch ≠ 0 → leaving = false →
        ((u.peer p).state = .absent ∨ (u.peer p).state = .lost
          ∨ ((u.peer p).state = .syncing ∨ (u.peer p).state = .linked) ∧ epoch ≠ (u.peer p).peerEpoch → leaves resync)
        ∧ (((u.peer p).state = .syncing ∨ (u.peer p).state = .linked) → epoch = (u.peer p).peerEpoch →
            leaves { u with pen := { u.pen with peers := u.pen.peers.set p { u.peer p with silenceTimer := limit } } }))
    ∧ (epoch ≠ 0 → leaving = true →
        (((u.peer p).state = .syncing ∨ (u.peer p).state = .linked) →
          leaves ((u.sessionEnd p .absent 0).raise (.peerLeft p)).grantAttempt)
        ∧ ((u.peer p).state = .lost →
            leaves { u with pen := { u.pen with
              peers := u.pen.peers.set p { u.peer p with state := .absent, peerEpoch := 0 } } })
        ∧ ((u.peer p).state = .absent → leaves u))

/-- OPEN frames (R28, R37, R38, R44): srcEpoch 0 is stale; a matching dstEpoch with a limit up to 15 restarts the session and
links the peer in whatever state it is, PEER_RESTARTED before PEER_LINKED from LINKED; above 15 it is stale; a dstEpoch that
does not match resynchronises the peer. That the stale OPEN of a known peer still refreshes its silence timer is the model's
reading of R44 (DEDUCED, log entry 13). -/
def Obligations.OpenLinksOrResynchronises : Prop :=
  ∀ (order : FrameOrder) (contention : BitVec 7) (bytes : List Byte) (p : Station) (srcEpoch dstEpoch : Epoch) (a l : Seq)
    (s u : State),
    Arrives order contention bytes p (.control .openFrame u.control.ownAddr srcEpoch dstEpoch a l) s u →
    let leaves (v : State) : Prop := Leaves (.goodFrame order contention bytes) s v
    let stale : State := { u with hpt := { u.hpt with
      counters := { u.hpt.counters with staleFrames := min 65535 (u.hpt.counters.staleFrames + 1) } } }
    let limit := u.cfg.silenceMultiple * u.cfg.helloInterval
    let live := (u.peer p).state = .syncing ∨ (u.peer p).state = .linked
    let again : State :=
      if (u.peer p).state = .linked then (u.sessionRestart p).raise (.peerRestarted p) else u.sessionRestart p
    let enter (v : State) (f : PeerEntry → PeerEntry) : State :=
      { v with pen := { v.pen with peers := v.pen.peers.set p { f (v.peer p) with peerEpoch := srcEpoch, silenceTimer := limit } } }
    (srcEpoch = 0 → leaves stale)
    ∧ (srcEpoch ≠ 0 → dstEpoch = u.control.epoch → 15 < l.toNat →
        (live ∧ srcEpoch = (u.peer p).peerEpoch →
          leaves { stale with pen := { u.pen with
            peers := u.pen.peers.set p { u.peer p with silenceTimer := limit } } })
        ∧ (¬(live ∧ srcEpoch = (u.peer p).peerEpoch) → leaves stale))
    ∧ (srcEpoch ≠ 0 → dstEpoch = u.control.epoch → l.toNat ≤ 15 →
        leaves
          ((enter again fun e =>
              { e with
                heldLimit := l
                state := .linked
                openPending := false
                acceptPending := true
                joinTimer := 0 }).raise (.peerLinked p)).grantAttempt)
    ∧ (srcEpoch ≠ 0 → dstEpoch ≠ u.control.epoch →
        let resync (v : State) : State := (enter v fun e =>
          { e with
            state := .syncing
            openPending := true
            acceptPending := false
            joinTimer := u.cfg.ackTimeout }).grantAttempt
        (live → leaves (resync again)) ∧ (¬live → leaves (resync u)))

/-- ACCEPT and CREDIT frames (R28, R39, R41, R44, R49): srcEpoch 0 is stale; a matching srcEpoch refreshes the silence timer
of a SYNCING or LINKED peer first; an ACCEPT that is current in SYNCING or LINKED, or a CREDIT that is current in LINKED, is
taken for its ack and limit, and an ACCEPT then links a SYNCING peer; every other one is stale. -/
def Obligations.AcceptAndCreditCarryAckAndLimit : Prop :=
  ∀ (order : FrameOrder) (contention : BitVec 7) (bytes : List Byte) (p : Station) (k : ControlKind)
    (srcEpoch dstEpoch : Epoch) (a l : Seq) (s u : State),
    Arrives order contention bytes p (.control k u.control.ownAddr srcEpoch dstEpoch a l) s u → k ≠ .openFrame →
    let leaves (v : State) : Prop := Leaves (.goodFrame order contention bytes) s v
    let stale (v : State) : State := { v with hpt := { v.hpt with
      counters := { v.hpt.counters with staleFrames := min 65535 (v.hpt.counters.staleFrames + 1) } } }
    let live := (u.peer p).state = .syncing ∨ (u.peer p).state = .linked
    let v : State :=
      if live ∧ srcEpoch = (u.peer p).peerEpoch then
        { u with pen := { u.pen with
            peers := u.pen.peers.set p
              { u.peer p with silenceTimer := u.cfg.silenceMultiple * u.cfg.helloInterval } } }
      else u
    let taken :=
      srcEpoch = (u.peer p).peerEpoch ∧ dstEpoch = u.control.epoch
        ∧ ((u.peer p).state = .linked ∨ (u.peer p).state = .syncing ∧ k = .acceptFrame)
    (srcEpoch = 0 → leaves (stale u))
    ∧ (srcEpoch ≠ 0 → ¬taken → leaves (stale v))
    ∧ (srcEpoch ≠ 0 → taken → v.takeAckLimit p a l = none → leaves (stale v))
    ∧ (srcEpoch ≠ 0 → taken → (u.peer p).state = .linked → ∀ w, v.takeAckLimit p a l = some w → leaves w)
    ∧ (srcEpoch ≠ 0 → taken → (u.peer p).state = .syncing → ∀ w, v.takeAckLimit p a l = some w →
        leaves
          (State.raise (.peerLinked p)
            { w with pen := { w.pen with
                peers := w.pen.peers.set p
                  { w.peer p with state := .linked, retryCount := 0, joinTimer := 0, openPending := false } } }).grantAttempt)

/-- DATA frames (R28, R41, R44, R49, R55, R56, R57, R59): stale as a CREDIT is; otherwise ack and limit are applied and the
seq is decided: at expected with a reservation it is stored at the tail of the delivery queue with its arrival stamp,
expected advances and ackPending is set; at expected without one it is a credit violation; 1 to 32 behind a duplicate and
anything else out of order, both with ackPending set. Setting ackPending starts the ack delay if it is stopped. -/
def Obligations.DataIsStoredInSequenceWithinCredit : Prop :=
  ∀ (order : FrameOrder) (contention : BitVec 7) (bytes : List Byte) (p : Station) (srcEpoch dstEpoch : Epoch)
    (q a l : Seq) (payload : List Byte) (s u : State),
    Arrives order contention bytes p (.data u.control.ownAddr srcEpoch dstEpoch q a l payload) s u →
    let leaves (v : State) : Prop := Leaves (.goodFrame order contention bytes) s v
    let stale (v : State) : State := { v with hpt := { v.hpt with
      counters := { v.hpt.counters with staleFrames := min 65535 (v.hpt.counters.staleFrames + 1) } } }
    let live := (u.peer p).state = .syncing ∨ (u.peer p).state = .linked
    let v : State :=
      if live ∧ srcEpoch = (u.peer p).peerEpoch then
        { u with pen := { u.pen with
            peers := u.pen.peers.set p
              { u.peer p with silenceTimer := u.cfg.silenceMultiple * u.cfg.helloInterval } } }
      else u
    let taken := srcEpoch = (u.peer p).peerEpoch ∧ dstEpoch = u.control.epoch ∧ (u.peer p).state = .linked
    let flagged (e : PeerEntry) : PeerEntry :=
      if e.ackPending = true then e
      else if e.ackDelayTimer ≠ 0 then { e with ackPending := true }
      else if u.cfg.ackDelay = 0 then { e with ackPending := true, creditDue := true }
      else { e with ackPending := true, ackDelayTimer := u.cfg.ackDelay }
    let withEntry (w : State) (e : PeerEntry) : State := { w with pen := { w.pen with peers := w.pen.peers.set p e } }
    (srcEpoch = 0 → leaves (stale u))
    ∧ (srcEpoch ≠ 0 → ¬taken → leaves (stale v))
    ∧ (srcEpoch ≠ 0 → taken → v.takeAckLimit p a l = none → leaves (stale v))
    ∧ (srcEpoch ≠ 0 → taken → ∀ w, v.takeAckLimit p a l = some w →
        let e := w.peer p
        let room := (e.grantLimit - e.expected).toNat
        (q = e.expected → 0 < room →
          leaves
            (withEntry
              { w with mst := { w.mst with
                  delivery := w.mst.delivery ++ [⟨p, .data q, payload, w.stamp⟩], stored := w.mst.stored + 1 } }
              (flagged { e with expected := e.expected + 1 })))
        ∧ (q = e.expected → room = 0 →
            leaves { w with hpt := { w.hpt with
              counters := { w.hpt.counters with creditViolations := min 65535 (w.hpt.counters.creditViolations + 1) } } })
        ∧ (1 ≤ (e.expected - q).toNat → (e.expected - q).toNat ≤ 32 →
            leaves
              (withEntry
                { w with hpt := { w.hpt with
                  counters := { w.hpt.counters with duplicates := min 65535 (w.hpt.counters.duplicates + 1) } } }
                (flagged e)))
        ∧ (33 ≤ (e.expected - q).toNat →
            leaves
              (withEntry
                { w with hpt := { w.hpt with
                  counters := { w.hpt.counters with outOfOrder := min 65535 (w.hpt.counters.outOfOrder + 1) } } }
                (flagged e))))

/-- GROUP frames (R76, R117, R118): whatever the state of the source, its silence timer restarts if it is SYNCING or LINKED,
and the frame is stored while storedGroup is below G, counted GROUP_NO_ROOM at G, or counted GROUP_FILTERED where no enabled
entry matches its tag. No grant is made and no reservation changes. -/
def Obligations.GroupIsFilteredThenStoredInHeadroom : Prop :=
  ∀ (order : FrameOrder) (contention : BitVec 7) (bytes : List Byte) (p : Station) (tag : Byte) (payload : List Byte)
    (s u : State), Arrives order contention bytes p (.group tag payload) s u →
    let leaves (v : State) : Prop := Leaves (.goodFrame order contention bytes) s v
    let v : State :=
      if (u.peer p).state = .syncing ∨ (u.peer p).state = .linked then
        { u with pen := { u.pen with
            peers := u.pen.peers.set p
              { u.peer p with silenceTimer := u.cfg.silenceMultiple * u.cfg.helloInterval } } }
      else u
    (acceptingEntry u.cfg.filters tag = none →
      leaves { v with hpt := { v.hpt with
        counters := { v.hpt.counters with groupFiltered := min 65535 (v.hpt.counters.groupFiltered + 1) } } })
    ∧ (∀ i, acceptingEntry u.cfg.filters tag = some i → u.cfg.headroom ≤ u.mst.storedGroup →
        leaves { v with hpt := { v.hpt with
          counters := { v.hpt.counters with groupNoRoom := min 65535 (v.hpt.counters.groupNoRoom + 1) } } })
    ∧ ∀ i, acceptingEntry u.cfg.filters tag = some i → u.mst.storedGroup < u.cfg.headroom →
        leaves { v with mst := { v.mst with
          delivery := v.mst.delivery ++ [⟨p, .group i tag, payload, v.stamp⟩]
          stored := v.mst.stored + 1
          storedGroup := v.mst.storedGroup + 1 } }

/-! ### Timers -/

/-- The timers of a peer that count retries or silence (R42, R43, R63, R64): at its expiry the join timer of a SYNCING entry
makes the OPEN due again, and the ack timer of a LINKED entry marks every SENT slot of the peer, each with one retry more and
its timer in full, while the retries last; then, and at the silence timer's expiry at once, the session ends, the entry is
LOST with its peerEpoch, PEER_LOST is raised with its cause, and the others are offered the returned reservation. That a timer
expires in its last TU is the model's (DESIGN CHOICE, log entry 5). -/
def Obligations.PeerTimersRetryThenLoseThePeer : Prop :=
  ∀ (s : State) (p : Station), s.inReset = false →
    let e := s.peer p
    let lost (cause : LossCause) : State :=
      ((s.sessionEnd p .lost e.peerEpoch).raise (.peerLost p cause)).grantAttempt
    (s.hmn.level = .sound → e.state = .syncing → e.joinTimer = 1 →
      (e.retryCount < s.cfg.maxRetries →
        Leaves (.joinTimerExpiry p) s
          { s with pen := { s.pen with
              peers := s.pen.peers.set p
                { e with retryCount := e.retryCount + 1, openPending := true, joinTimer := s.cfg.ackTimeout } } })
      ∧ (s.cfg.maxRetries ≤ e.retryCount → Leaves (.joinTimerExpiry p) s (lost .join)))
    ∧ (s.hmn.level = .sound → e.state = .linked → e.ackTimer = 1 →
        (e.retryCount < s.cfg.maxRetries → s.txs.SlotLaw →
          Leaves (.ackTimerExpiry p) s
            { s with
              txs := { s.txs with
                slots := Vector.ofFn fun (h : Handle) =>
                  if (s.txs.slot h).isSentTo p then (s.txs.slot h).withMark true else s.txs.slot h }
              pen := { s.pen with
                peers := s.pen.peers.set p
                  { e with retryCount := e.retryCount + 1, ackTimer := s.cfg.ackTimeout } } })
        ∧ (s.cfg.maxRetries ≤ e.retryCount → Leaves (.ackTimerExpiry p) s (lost .retries)))
    ∧ (e.state = .syncing ∨ e.state = .linked → e.silenceTimer = 1 → Leaves (.silenceTimerExpiry p) s (lost .silence))

/-- The timers that make a frame due or end a wait (R35, R59, R136, R137): the ack-delay timer sets creditDue and stops; the
hello timer sets hello-due and starts again; the holdoff's expiry rejoins the line: the epoch advances with 255 followed by 1,
the score is 0 and SOUND, the part is RUNNING with hello-due set and the hello timer started, HEALTH_CHANGED with SOUND is
raised, and the LIU, the slots and the store stand. And a timer of any kind that is stopped, still has time to run, or is held
does not expire: its expiry changes nothing (R46, R68, R149); while the level is GUARDED neither a join timer nor an ack timer
expires. The last-TU expiry is the model's (DESIGN CHOICE, log entry 5). -/
def Obligations.TimersExpireWithTheirEffectOrNotAtAll : Prop :=
  (∀ s : State, s.inReset = false →
    (∀ p, (s.peer p).state = .syncing ∨ (s.peer p).state = .linked → (s.peer p).ackDelayTimer = 1 →
      Leaves (.ackDelayExpiry p) s
        { s with pen := { s.pen with
            peers := s.pen.peers.set p { s.peer p with creditDue := true, ackDelayTimer := 0 } } })
    ∧ (s.control.opState = .running → s.pen.helloTimer = 1 →
        Leaves .helloTimerExpiry s
          { s with pen := { s.pen with helloTimer := s.cfg.helloInterval, helloDue := true } })
    ∧ (s.control.opState = .detached → s.hmn.holdoff = 1 →
        Leaves .holdoffExpiry s
          (State.raise (.healthChanged .sound)
            { s with
              control := { s.control with
                epoch := if s.control.epoch = 255 then 1 else s.control.epoch + 1
                opState := .running }
              hmn := { score := 0, level := .sound, holdoff := 0 }
              pen := { s.pen with helloTimer := s.cfg.helloInterval, helloDue := true } })))
  ∧ ∀ s : State,
    (∀ p, (s.peer p).joinTimer ≠ 1 ∨ s.hmn.level = .guarded → exec (.joinTimerExpiry p) s = .next s)
    ∧ (∀ p, (s.peer p).ackTimer ≠ 1 ∨ s.hmn.level = .guarded → exec (.ackTimerExpiry p) s = .next s)
    ∧ (∀ p, (s.peer p).silenceTimer ≠ 1 → exec (.silenceTimerExpiry p) s = .next s)
    ∧ (∀ p, (s.peer p).ackDelayTimer ≠ 1 → exec (.ackDelayExpiry p) s = .next s)
    ∧ (s.pen.helloTimer ≠ 1 → exec .helloTimerExpiry s = .next s)
    ∧ (s.hmn.holdoff ≠ 1 → exec .holdoffExpiry s = .next s)
    ∧ (s.control.leaveLimit ≠ 1 → exec .leaveLimitExpiry s = .next s)

/-! ### The choice -/

/-- The choice (R99, R100, R101, R103): what TXS presents is offered, and no candidate on offer comes before it in the order
of urgency, class, kind, and rotation or submission age; TXS presents nothing only when nothing is on offer. -/
def Obligations.ChoiceIsFirstOfTheCandidates : Prop :=
  ∀ s : State, s.txs.SlotLaw → s.WindowLaw → s.MessageLaw →
    (∀ c, s.choose = some c → s.Offers c ∧ ∀ c', s.Offers c' → s.rank c ≤ s.rank c')
    ∧ (s.choose = none → ∀ c, ¬s.Offers c)

/-! ### Frames on the line -/

/-- The byte phase of each kind without its CRC, field by field at the places of R14, with the codes of R13 and spare bits 0
(R15); and what a receiver makes of a frame as this part sends it (R5, R16, R18): the source address and every field the frame
was built from. -/
def Obligations.EveryFrameReadsBackAsBuilt : Prop :=
  (∀ f : FrameBody,
    let byte (n : Nat) : Byte := BitVec.ofNat 8 n
    match f with
    | .hello epoch leaving => frameBytes f = [byte 31, epoch, byte (if leaving then 1 else 0)]
    | .control kind dest srcEpoch dstEpoch ack limit =>
      frameBytes f =
        [byte (32 * (match kind with
            | .openFrame => 1
            | .acceptFrame => 2
            | .creditFrame => 3) + dest.toNat),
          srcEpoch, dstEpoch, byte (4 * ack.toNat + limit.toNat / 16), byte (16 * (limit.toNat % 16))]
    | .data dest srcEpoch dstEpoch seq ack limit payload =>
      payload.length ≤ 48 → frameBytes f =
        [byte (32 * 4 + dest.toNat), srcEpoch, dstEpoch, byte (4 * seq.toNat + ack.toNat / 16),
          byte (16 * (ack.toNat % 16) + limit.toNat / 4), byte (64 * (limit.toNat % 4) + payload.length)] ++ payload
    | .group tag payload =>
      payload.length ≤ 48 → frameBytes f = [byte (32 * 5 + 31), tag, byte payload.length] ++ payload)
  ∧ ∀ (urgency : BitVec 2) (source : Address) (f : FrameBody),
    (match f with
     | .hello _ _ => True
     | .control _ _ _ _ _ _ => True
     | .data _ _ _ _ _ _ payload => payload.length ≤ 48
     | .group _ payload => payload.length ≤ 48) →
    receiveFrame (contentionValue urgency source) (bytePhase (contentionValue urgency source) (frameBytes f))
      = some (source, f)

/-- The frame check of R16: from 0xFFFF, each bit of each byte value, most significant first, shifts the register by one and,
where it differs from the bit shifted out, adds x^12 + x^5 + 1, with 0x29B1 over the byte values 0x31 to 0x39; a frame's check
is that of its contention value and its bytes, appended high byte first. It tells apart any two sequences that differ in one
byte value, the contention value included: a receiver that took one byte or a contention bit wrongly sees a CRC mismatch. -/
def Obligations.FrameCheckCatchesOneWrongByte : Prop :=
  (∀ values : List Byte,
    let bits := values.flatMap fun v => [7, 6, 5, 4, 3, 2, 1, 0].map v.getLsbD
    crc16 values =
      bits.foldl (fun (r : BitVec 16) bit => if r.getLsbD 15 ≠ bit then (r <<< 1) ^^^ 0x1021 else r <<< 1) 0xFFFF)
  ∧ crc16 [0x31, 0x32, 0x33, 0x34, 0x35, 0x36, 0x37, 0x38, 0x39] = 0x29B1
  ∧ (∀ (contention : BitVec 7) (bytes : List Byte),
      let check := crc16 (BitVec.ofNat 8 contention.toNat :: bytes)
      bytePhase contention bytes = bytes ++ [check.extractLsb' 8 8, check.extractLsb' 0 8])
  ∧ ∀ (before after : List Byte) (right wrong : Byte), right ≠ wrong →
    crc16 (before ++ right :: after) ≠ crc16 (before ++ wrong :: after)

/-- A frame is one unbroken run of elements (R4, R5, R13): a dominant start element, the seven contention bits with bit 6
first, ten elements for each byte with its CRC, each opened dominant, with its data bits least significant first, and closed
recessive, and eleven recessive elements, so 69 bit times for a HELLO, 89
for a control frame, 99 + 10n for DATA and 69 + 10n for GROUP. -/
def Obligations.FrameLengthFollowsItsKind : Prop :=
  (∀ (contention : BitVec 7) (bytes : List Byte),
    (frameElements contention bytes).length = 1 + 7 + 10 * (bytes.length + 2) + 11
      ∧ (frameElements contention bytes)[0]? = some false
      ∧ (∀ i < 7, (frameElements contention bytes)[1 + i]? = some (contention.getLsbD (6 - i)))
      ∧ (∀ i < bytes.length + 2, (frameElements contention bytes)[8 + 10 * i]? = some false
          ∧ (frameElements contention bytes)[8 + 10 * i + 9]? = some true)
      ∧ (∀ i b, (bytePhase contention bytes)[i]? = some b →
          ∀ j < 8, (frameElements contention bytes)[8 + 10 * i + 1 + j]? = some (b.getLsbD j))
      ∧ ∀ i < 11, (frameElements contention bytes)[8 + 10 * (bytes.length + 2) + i]? = some true)
  ∧ ∀ (contention : BitVec 7) (f : FrameBody),
      (frameElements contention (frameBytes f)).length =
        match f with
        | .hello _ _ => 69
        | .control _ _ _ _ _ _ => 89
        | .data _ _ _ _ _ _ payload => 99 + 10 * payload.length
        | .group _ payload => 69 + 10 * payload.length

/-! ### Laws that every step keeps -/

/-- IRQn is low exactly while a queue whose interrupt is enabled is non-empty (R169): every step keeps it so. -/
def Obligations.IrqFollowsEnabledQueues : Prop :=
  ∀ s t : State,
    let follows (v : State) : Prop :=
      v.hpt.irqnLow = true ↔
        (v.cfg.deliveryInterrupt = true ∧ v.mst.delivery ≠ [])
          ∨ (v.cfg.completionInterrupt = true ∧ v.txs.completions ≠ [])
          ∨ (v.cfg.noticeInterrupt = true ∧ v.hpt.notices ≠ [])
    follows s → step s = .next t → follows t

/-- Score, counters, drop count and notice queue stay within their bounds (R126, R175, R178, R181), and every message keeps an
urgency 1 to 3 and at most 48 payload bytes (R71, R89): every step keeps it so. A notice that is raised joins the tail of the
queue, stamped with the time of its event, while 16 records do not yet stand there; at 16 the queue stands and the drop count
advances, to 255 at most (R176, R177, R178). The port keeps at most seven bits of a byte that is not complete (R157), and in
PARAMETERS and ANSWER a byte is still due (R158). -/
def Obligations.BoundsAreKept : Prop :=
  (∀ s t : State, step s = .next t →
    (s.BoundsLaw → t.BoundsLaw) ∧ (s.MessageLaw → t.MessageLaw) ∧ (s.PortLaw → t.PortLaw))
  ∧ ∀ (s : State) (kind : NoticeKind),
      (s.hpt.notices.length < 16 →
        s.raise kind = { s with hpt := { s.hpt with notices := s.hpt.notices ++ [{ kind := kind, stamp := s.stamp }] } })
      ∧ (16 ≤ s.hpt.notices.length →
          s.raise kind = { s with hpt := { s.hpt with drops := min 255 (s.hpt.drops + 1) } })

/-- The control section's law: a record and a current epoch are held exactly outside UNCONFIGURED, the record in its ranges,
and each timer and condition of an operating state runs in that state only (R35, R136, R140, R145, R150, R152, R155). And the
own entry alone is SELF, and outside RUNNING every other entry is ABSENT (R24, R140). Every step keeps each. -/
def Obligations.OperatingStatesStayConsistent : Prop :=
  ∀ s t : State, step s = .next t → (s.ControlLaw → t.ControlLaw) ∧ (s.PeerLaw → t.PeerLaw)

/-- The line interface unit's law: staging buffer, staging record and line state agree, a disabled LIU is at rest, the idle
count is 11 in IDLE and below in RECOVERING, and LTX is low exactly while a dominant element of this station's frame is being
driven (R1, R3, R10, R11, R12, R23, R105). The assembly buffer's law: what it holds has passed the checks that fell so far and
is no longer than a frame (R17, R18). And while the line is idle and nothing is staged, what TXS presents is the winner of a
choice in the state as it stands (R98; that the choice is made at the end of each event is the model's, DEDUCED, log entry
12). Every step keeps each. -/
def Obligations.LineUnitAndPresentationAgree : Prop :=
  ∀ s t : State, step s = .next t →
    (s.LineLaw → t.LineLaw) ∧ (s.AssemblyLaw → t.AssemblyLaw) ∧ (s.PresentedLaw → t.PresentedLaw)

/-- The law of the slots: every slot stands in exactly the list its state asks for, once (R90, R91, R92). -/
def Obligations.SlotListsHoldEachSlotOnce : Prop :=
  ∀ s t : State, s.txs.SlotLaw → step s = .next t → t.txs.SlotLaw

/-- The carrying rule (R61): ackPending clears if the ack carried is the current expected, grantPending if the limit carried
is the current grantLimit, and once both are clear creditDue clears and the ack-delay timer stops; nothing else changes. By
it and R59 an ack or a grant not yet carried always has its delay running or a CREDIT due, and neither is left over once
everything has been carried: every step keeps it so for every entry. -/
def Obligations.UncarriedAcksAndGrantsStayDue : Prop :=
  (∀ (e : PeerEntry) (c : Carried),
    let ack := e.ackPending = true ∧ c.ack ≠ e.expected
    let grant := e.grantPending = true ∧ c.limit ≠ e.grantLimit
    e.carry c =
      { e with
        ackPending := decide ack
        grantPending := decide grant
        creditDue := if ack ∨ grant then e.creditDue else false
        ackDelayTimer := if ack ∨ grant then e.ackDelayTimer else 0 })
  ∧ ∀ s t : State, (∀ p, (s.peer p).CarryLaw) → step s = .next t → ∀ p, (t.peer p).CarryLaw

/-- The law of the store: stored + ΣR_p + (G − storedGroup) never exceeds 48, storedGroup never exceeds G, and every
reservation lies between 0 and quota, 0 outside SYNCING and LINKED (R73, R74). -/
def Obligations.StoreIsNeverOvercommitted : Prop :=
  ∀ s t : State, s.ControlLaw → s.PeerLaw → s.StoreLaw → step s = .next t → t.StoreLaw

/-- The laws of the sessions: a peer not LINKED has no SENT slot, an ABSENT or LOST one no QUEUED DATA slot (R29, R140,
R151), the staging record stands for its slot, which is never FREE while it is named (R97, R106), and every peer's send window is at most 15 with each outstanding seq
borne by exactly one SENT slot (R48). -/
def Obligations.SendWindowsMatchTheirSlots : Prop :=
  ∀ s t : State, s.LineLaw → s.PresentedLaw → s.txs.SlotLaw → s.PeerLaw → s.SessionLaw → s.WindowLaw → step s = .next t →
    t.SessionLaw ∧ t.WindowLaw

/-- The law of the entries: what each association state holds, the ack timer running exactly while DATA is outstanding, and no
retry count above max retries (R25, R29, R40, R42, R43, R62, R66): every step from a lawful state keeps it. -/
def Obligations.EntriesHoldWhatTheirStateAllows : Prop :=
  ∀ s t : State, s.Lawful → step s = .next t → t.EntryLaw

/-- The state after reset meets every law, with LTX and IRQn high, MISO at high impedance and every queue empty (R141, R142,
R157). That CSn is high and the straps are 0 in it is the model's (DESIGN CHOICE, log entry 1). -/
def Obligations.ResetMeetsEveryLaw : Prop :=
  State.reset.Lawful ∧ State.reset.AssemblyLaw ∧ State.reset.IrqLaw ∧ State.reset.BoundsLaw ∧ State.reset.MessageLaw ∧ State.reset.PortLaw
    ∧ (∀ p, (State.reset.peer p).CarryLaw)
    ∧ State.reset.liu.ltxLow = false ∧ State.reset.hpt.irqnLow = false ∧ State.reset.miso = none
    ∧ State.reset.mst.delivery = [] ∧ State.reset.txs.order = [] ∧ State.reset.txs.completions = []
    ∧ State.reset.hpt.notices = [] ∧ State.reset.pending = [] ∧ State.reset.inputs = []
end

