-- ==== Sys2Proof/Laws/State.lean ====
section
/-! SUPPORT. The fields of a state after each shared update, one lemma for each, so that no proof unfolds an update. -/

namespace Sys2Proof.Machine

variable (s : State)

/-! ### Block updates -/

@[simp] theorem State.onControl_inReset (f : Control → Control) : (s.onControl f).inReset = s.inReset := rfl
@[simp] theorem State.onControl_control (f : Control → Control) : (s.onControl f).control = f s.control := rfl
@[simp] theorem State.onControl_liu (f : Control → Control) : (s.onControl f).liu = s.liu := rfl
@[simp] theorem State.onControl_pen (f : Control → Control) : (s.onControl f).pen = s.pen := rfl
@[simp] theorem State.onControl_mst (f : Control → Control) : (s.onControl f).mst = s.mst := rfl
@[simp] theorem State.onControl_txs (f : Control → Control) : (s.onControl f).txs = s.txs := rfl
@[simp] theorem State.onControl_hmn (f : Control → Control) : (s.onControl f).hmn = s.hmn := rfl
@[simp] theorem State.onControl_hpt (f : Control → Control) : (s.onControl f).hpt = s.hpt := rfl
@[simp] theorem State.onControl_stamp (f : Control → Control) : (s.onControl f).stamp = s.stamp := rfl
@[simp] theorem State.onControl_pending (f : Control → Control) : (s.onControl f).pending = s.pending := rfl
@[simp] theorem State.onControl_inputs (f : Control → Control) : (s.onControl f).inputs = s.inputs := rfl

@[simp] theorem State.onLiu_inReset (f : Liu → Liu) : (s.onLiu f).inReset = s.inReset := rfl
@[simp] theorem State.onLiu_control (f : Liu → Liu) : (s.onLiu f).control = s.control := rfl
@[simp] theorem State.onLiu_liu (f : Liu → Liu) : (s.onLiu f).liu = f s.liu := rfl
@[simp] theorem State.onLiu_pen (f : Liu → Liu) : (s.onLiu f).pen = s.pen := rfl
@[simp] theorem State.onLiu_mst (f : Liu → Liu) : (s.onLiu f).mst = s.mst := rfl
@[simp] theorem State.onLiu_txs (f : Liu → Liu) : (s.onLiu f).txs = s.txs := rfl
@[simp] theorem State.onLiu_hmn (f : Liu → Liu) : (s.onLiu f).hmn = s.hmn := rfl
@[simp] theorem State.onLiu_hpt (f : Liu → Liu) : (s.onLiu f).hpt = s.hpt := rfl
@[simp] theorem State.onLiu_stamp (f : Liu → Liu) : (s.onLiu f).stamp = s.stamp := rfl
@[simp] theorem State.onLiu_pending (f : Liu → Liu) : (s.onLiu f).pending = s.pending := rfl
@[simp] theorem State.onLiu_inputs (f : Liu → Liu) : (s.onLiu f).inputs = s.inputs := rfl

@[simp] theorem State.onPen_inReset (f : Pen → Pen) : (s.onPen f).inReset = s.inReset := rfl
@[simp] theorem State.onPen_control (f : Pen → Pen) : (s.onPen f).control = s.control := rfl
@[simp] theorem State.onPen_liu (f : Pen → Pen) : (s.onPen f).liu = s.liu := rfl
@[simp] theorem State.onPen_pen (f : Pen → Pen) : (s.onPen f).pen = f s.pen := rfl
@[simp] theorem State.onPen_mst (f : Pen → Pen) : (s.onPen f).mst = s.mst := rfl
@[simp] theorem State.onPen_txs (f : Pen → Pen) : (s.onPen f).txs = s.txs := rfl
@[simp] theorem State.onPen_hmn (f : Pen → Pen) : (s.onPen f).hmn = s.hmn := rfl
@[simp] theorem State.onPen_hpt (f : Pen → Pen) : (s.onPen f).hpt = s.hpt := rfl
@[simp] theorem State.onPen_stamp (f : Pen → Pen) : (s.onPen f).stamp = s.stamp := rfl
@[simp] theorem State.onPen_pending (f : Pen → Pen) : (s.onPen f).pending = s.pending := rfl
@[simp] theorem State.onPen_inputs (f : Pen → Pen) : (s.onPen f).inputs = s.inputs := rfl

@[simp] theorem State.onMst_inReset (f : Mst → Mst) : (s.onMst f).inReset = s.inReset := rfl
@[simp] theorem State.onMst_control (f : Mst → Mst) : (s.onMst f).control = s.control := rfl
@[simp] theorem State.onMst_liu (f : Mst → Mst) : (s.onMst f).liu = s.liu := rfl
@[simp] theorem State.onMst_pen (f : Mst → Mst) : (s.onMst f).pen = s.pen := rfl
@[simp] theorem State.onMst_mst (f : Mst → Mst) : (s.onMst f).mst = f s.mst := rfl
@[simp] theorem State.onMst_txs (f : Mst → Mst) : (s.onMst f).txs = s.txs := rfl
@[simp] theorem State.onMst_hmn (f : Mst → Mst) : (s.onMst f).hmn = s.hmn := rfl
@[simp] theorem State.onMst_hpt (f : Mst → Mst) : (s.onMst f).hpt = s.hpt := rfl
@[simp] theorem State.onMst_stamp (f : Mst → Mst) : (s.onMst f).stamp = s.stamp := rfl
@[simp] theorem State.onMst_pending (f : Mst → Mst) : (s.onMst f).pending = s.pending := rfl
@[simp] theorem State.onMst_inputs (f : Mst → Mst) : (s.onMst f).inputs = s.inputs := rfl

@[simp] theorem State.onTxs_inReset (f : Txs → Txs) : (s.onTxs f).inReset = s.inReset := rfl
@[simp] theorem State.onTxs_control (f : Txs → Txs) : (s.onTxs f).control = s.control := rfl
@[simp] theorem State.onTxs_liu (f : Txs → Txs) : (s.onTxs f).liu = s.liu := rfl
@[simp] theorem State.onTxs_pen (f : Txs → Txs) : (s.onTxs f).pen = s.pen := rfl
@[simp] theorem State.onTxs_mst (f : Txs → Txs) : (s.onTxs f).mst = s.mst := rfl
@[simp] theorem State.onTxs_txs (f : Txs → Txs) : (s.onTxs f).txs = f s.txs := rfl
@[simp] theorem State.onTxs_hmn (f : Txs → Txs) : (s.onTxs f).hmn = s.hmn := rfl
@[simp] theorem State.onTxs_hpt (f : Txs → Txs) : (s.onTxs f).hpt = s.hpt := rfl
@[simp] theorem State.onTxs_stamp (f : Txs → Txs) : (s.onTxs f).stamp = s.stamp := rfl
@[simp] theorem State.onTxs_pending (f : Txs → Txs) : (s.onTxs f).pending = s.pending := rfl
@[simp] theorem State.onTxs_inputs (f : Txs → Txs) : (s.onTxs f).inputs = s.inputs := rfl

@[simp] theorem State.onHmn_inReset (f : Hmn → Hmn) : (s.onHmn f).inReset = s.inReset := rfl
@[simp] theorem State.onHmn_control (f : Hmn → Hmn) : (s.onHmn f).control = s.control := rfl
@[simp] theorem State.onHmn_liu (f : Hmn → Hmn) : (s.onHmn f).liu = s.liu := rfl
@[simp] theorem State.onHmn_pen (f : Hmn → Hmn) : (s.onHmn f).pen = s.pen := rfl
@[simp] theorem State.onHmn_mst (f : Hmn → Hmn) : (s.onHmn f).mst = s.mst := rfl
@[simp] theorem State.onHmn_txs (f : Hmn → Hmn) : (s.onHmn f).txs = s.txs := rfl
@[simp] theorem State.onHmn_hmn (f : Hmn → Hmn) : (s.onHmn f).hmn = f s.hmn := rfl
@[simp] theorem State.onHmn_hpt (f : Hmn → Hmn) : (s.onHmn f).hpt = s.hpt := rfl
@[simp] theorem State.onHmn_stamp (f : Hmn → Hmn) : (s.onHmn f).stamp = s.stamp := rfl
@[simp] theorem State.onHmn_pending (f : Hmn → Hmn) : (s.onHmn f).pending = s.pending := rfl
@[simp] theorem State.onHmn_inputs (f : Hmn → Hmn) : (s.onHmn f).inputs = s.inputs := rfl

@[simp] theorem State.onHpt_inReset (f : Hpt → Hpt) : (s.onHpt f).inReset = s.inReset := rfl
@[simp] theorem State.onHpt_control (f : Hpt → Hpt) : (s.onHpt f).control = s.control := rfl
@[simp] theorem State.onHpt_liu (f : Hpt → Hpt) : (s.onHpt f).liu = s.liu := rfl
@[simp] theorem State.onHpt_pen (f : Hpt → Hpt) : (s.onHpt f).pen = s.pen := rfl
@[simp] theorem State.onHpt_mst (f : Hpt → Hpt) : (s.onHpt f).mst = s.mst := rfl
@[simp] theorem State.onHpt_txs (f : Hpt → Hpt) : (s.onHpt f).txs = s.txs := rfl
@[simp] theorem State.onHpt_hmn (f : Hpt → Hpt) : (s.onHpt f).hmn = s.hmn := rfl
@[simp] theorem State.onHpt_hpt (f : Hpt → Hpt) : (s.onHpt f).hpt = f s.hpt := rfl
@[simp] theorem State.onHpt_stamp (f : Hpt → Hpt) : (s.onHpt f).stamp = s.stamp := rfl
@[simp] theorem State.onHpt_pending (f : Hpt → Hpt) : (s.onHpt f).pending = s.pending := rfl
@[simp] theorem State.onHpt_inputs (f : Hpt → Hpt) : (s.onHpt f).inputs = s.inputs := rfl

/-! ### Peer entries -/

@[simp] theorem State.onPeer_inReset (p : Station) (f : PeerEntry → PeerEntry) :
    (s.onPeer p f).inReset = s.inReset := rfl
@[simp] theorem State.onPeer_control (p : Station) (f : PeerEntry → PeerEntry) :
    (s.onPeer p f).control = s.control := rfl
@[simp] theorem State.onPeer_liu (p : Station) (f : PeerEntry → PeerEntry) : (s.onPeer p f).liu = s.liu := rfl
@[simp] theorem State.onPeer_mst (p : Station) (f : PeerEntry → PeerEntry) : (s.onPeer p f).mst = s.mst := rfl
@[simp] theorem State.onPeer_txs (p : Station) (f : PeerEntry → PeerEntry) : (s.onPeer p f).txs = s.txs := rfl
@[simp] theorem State.onPeer_hmn (p : Station) (f : PeerEntry → PeerEntry) : (s.onPeer p f).hmn = s.hmn := rfl
@[simp] theorem State.onPeer_hpt (p : Station) (f : PeerEntry → PeerEntry) : (s.onPeer p f).hpt = s.hpt := rfl
@[simp] theorem State.onPeer_stamp (p : Station) (f : PeerEntry → PeerEntry) : (s.onPeer p f).stamp = s.stamp := rfl
@[simp] theorem State.onPeer_pending (p : Station) (f : PeerEntry → PeerEntry) :
    (s.onPeer p f).pending = s.pending := rfl
@[simp] theorem State.onPeer_inputs (p : Station) (f : PeerEntry → PeerEntry) :
    (s.onPeer p f).inputs = s.inputs := rfl
@[simp] theorem State.onPeer_helloTimer (p : Station) (f : PeerEntry → PeerEntry) :
    (s.onPeer p f).pen.helloTimer = s.pen.helloTimer := rfl
@[simp] theorem State.onPeer_helloDue (p : Station) (f : PeerEntry → PeerEntry) :
    (s.onPeer p f).pen.helloDue = s.pen.helloDue := rfl

/-- The entry changed is the peer's, from the entry it had. -/
@[simp] theorem State.onPeer_peers (p : Station) (f : PeerEntry → PeerEntry) :
    (s.onPeer p f).pen.peers = s.pen.peers.set p (f (s.peer p)) := rfl

/-- Reading an entry after a change of one entry. -/
theorem State.peer_onPeer (p q : Station) (f : PeerEntry → PeerEntry) :
    (s.onPeer p f).peer q = if p = q then f (s.peer p) else s.peer q := by
  simp only [State.peer, State.onPeer_peers]
  by_cases h : p = q
  · subst h; simp
  · rw [if_neg h]
    exact Vector.getElem_set_ne p.isLt q.isLt (fun e => h (Fin.ext e))

/-- The changed entry reads as it was changed to. -/
@[simp] theorem State.peer_onPeer_self (p : Station) (f : PeerEntry → PeerEntry) :
    (s.onPeer p f).peer p = f (s.peer p) := by
  rw [State.peer_onPeer, if_pos rfl]

/-- Every other entry reads as before. -/
theorem State.peer_onPeer_ne {p q : Station} (h : p ≠ q) (f : PeerEntry → PeerEntry) :
    (s.onPeer p f).peer q = s.peer q := by
  rw [State.peer_onPeer, if_neg h]

/-- Reading an entry only looks at the peer table. -/
theorem State.peer_congr {s t : State} (h : t.pen.peers = s.pen.peers) (p : Station) : t.peer p = s.peer p := by
  rw [State.peer, State.peer, h]

@[simp] theorem State.peer_onControl (f : Control → Control) (p : Station) : (s.onControl f).peer p = s.peer p := rfl
@[simp] theorem State.peer_onLiu (f : Liu → Liu) (p : Station) : (s.onLiu f).peer p = s.peer p := rfl
@[simp] theorem State.cfg_onLiu (f : Liu → Liu) : (s.onLiu f).cfg = s.cfg := rfl
@[simp] theorem State.peer_onMst (f : Mst → Mst) (p : Station) : (s.onMst f).peer p = s.peer p := rfl
@[simp] theorem State.cfg_onMst (f : Mst → Mst) : (s.onMst f).cfg = s.cfg := rfl
@[simp] theorem State.peer_onTxs (f : Txs → Txs) (p : Station) : (s.onTxs f).peer p = s.peer p := rfl
@[simp] theorem State.cfg_onTxs (f : Txs → Txs) : (s.onTxs f).cfg = s.cfg := rfl
@[simp] theorem State.peer_onHmn (f : Hmn → Hmn) (p : Station) : (s.onHmn f).peer p = s.peer p := rfl
@[simp] theorem State.cfg_onHmn (f : Hmn → Hmn) : (s.onHmn f).cfg = s.cfg := rfl
@[simp] theorem State.peer_onHpt (f : Hpt → Hpt) (p : Station) : (s.onHpt f).peer p = s.peer p := rfl
@[simp] theorem State.cfg_onHpt (f : Hpt → Hpt) : (s.onHpt f).cfg = s.cfg := rfl
@[simp] theorem State.cfg_onPen (f : Pen → Pen) : (s.onPen f).cfg = s.cfg := rfl
@[simp] theorem State.cfg_onPeer (p : Station) (f : PeerEntry → PeerEntry) : (s.onPeer p f).cfg = s.cfg := rfl

/-! ### Notices and counters -/

@[simp] theorem State.raise_inReset (k : NoticeKind) : (s.raise k).inReset = s.inReset := rfl
@[simp] theorem State.raise_control (k : NoticeKind) : (s.raise k).control = s.control := rfl
@[simp] theorem State.raise_liu (k : NoticeKind) : (s.raise k).liu = s.liu := rfl
@[simp] theorem State.raise_pen (k : NoticeKind) : (s.raise k).pen = s.pen := rfl
@[simp] theorem State.raise_mst (k : NoticeKind) : (s.raise k).mst = s.mst := rfl
@[simp] theorem State.raise_txs (k : NoticeKind) : (s.raise k).txs = s.txs := rfl
@[simp] theorem State.raise_hmn (k : NoticeKind) : (s.raise k).hmn = s.hmn := rfl
@[simp] theorem State.raise_hpt (k : NoticeKind) : (s.raise k).hpt = s.hpt.takeNotice ⟨k, s.stamp⟩ := rfl
@[simp] theorem State.raise_stamp (k : NoticeKind) : (s.raise k).stamp = s.stamp := rfl
@[simp] theorem State.raise_pending (k : NoticeKind) : (s.raise k).pending = s.pending := rfl
@[simp] theorem State.raise_inputs (k : NoticeKind) : (s.raise k).inputs = s.inputs := rfl
@[simp] theorem State.peer_raise (k : NoticeKind) (p : Station) : (s.raise k).peer p = s.peer p := rfl
@[simp] theorem State.cfg_raise (k : NoticeKind) : (s.raise k).cfg = s.cfg := rfl
@[simp] theorem State.count_inReset (c : CounterName) : (s.count c).inReset = s.inReset := rfl
@[simp] theorem State.count_control (c : CounterName) : (s.count c).control = s.control := rfl
@[simp] theorem State.count_liu (c : CounterName) : (s.count c).liu = s.liu := rfl
@[simp] theorem State.count_pen (c : CounterName) : (s.count c).pen = s.pen := rfl
@[simp] theorem State.count_mst (c : CounterName) : (s.count c).mst = s.mst := rfl
@[simp] theorem State.count_txs (c : CounterName) : (s.count c).txs = s.txs := rfl
@[simp] theorem State.count_hmn (c : CounterName) : (s.count c).hmn = s.hmn := rfl
@[simp] theorem State.count_hpt (c : CounterName) :
    (s.count c).hpt = { s.hpt with counters := s.hpt.counters.bump c } := rfl
@[simp] theorem State.count_stamp (c : CounterName) : (s.count c).stamp = s.stamp := rfl
@[simp] theorem State.count_pending (c : CounterName) : (s.count c).pending = s.pending := rfl
@[simp] theorem State.count_inputs (c : CounterName) : (s.count c).inputs = s.inputs := rfl
@[simp] theorem State.peer_count (c : CounterName) (p : Station) : (s.count c).peer p = s.peer p := rfl
@[simp] theorem State.cfg_count (c : CounterName) : (s.count c).cfg = s.cfg := rfl

/-! ### The outputs left out -/

@[simp] theorem State.withoutOutputs_inReset : s.withoutOutputs.inReset = s.inReset := rfl
@[simp] theorem State.withoutOutputs_control : s.withoutOutputs.control = s.control := rfl
@[simp] theorem State.withoutOutputs_liu : s.withoutOutputs.liu = s.liu := rfl
@[simp] theorem State.withoutOutputs_pen : s.withoutOutputs.pen = s.pen := rfl
@[simp] theorem State.withoutOutputs_mst : s.withoutOutputs.mst = s.mst := rfl
@[simp] theorem State.withoutOutputs_txs : s.withoutOutputs.txs = { s.txs with presented := none } := rfl
@[simp] theorem State.withoutOutputs_hmn : s.withoutOutputs.hmn = s.hmn := rfl
@[simp] theorem State.withoutOutputs_hpt : s.withoutOutputs.hpt = { s.hpt with irqnLow := false } := rfl
@[simp] theorem State.withoutOutputs_stamp : s.withoutOutputs.stamp = s.stamp := rfl
@[simp] theorem State.withoutOutputs_pending : s.withoutOutputs.pending = s.pending := rfl
@[simp] theorem State.withoutOutputs_inputs : s.withoutOutputs.inputs = s.inputs := rfl

/-! ### The port -/

@[simp] theorem State.answered_inReset (c : HostCommand) (b : List Byte) (st : Status) (r : List Byte) :
    (s.answered c b st r).inReset = s.inReset := rfl
@[simp] theorem State.portClosed_inReset : s.portClosed.inReset = s.inReset := rfl
@[simp] theorem State.closePort_inReset (aborted : Bool) : (s.closePort aborted).inReset = s.inReset := rfl
@[simp] theorem State.answered_control (c : HostCommand) (b : List Byte) (st : Status) (r : List Byte) :
    (s.answered c b st r).control = s.control := rfl
@[simp] theorem State.portClosed_control : s.portClosed.control = s.control := rfl
@[simp] theorem State.closePort_control (aborted : Bool) : (s.closePort aborted).control = s.control := rfl
@[simp] theorem State.answered_liu (c : HostCommand) (b : List Byte) (st : Status) (r : List Byte) :
    (s.answered c b st r).liu = s.liu := rfl
@[simp] theorem State.portClosed_liu : s.portClosed.liu = s.liu := rfl
@[simp] theorem State.closePort_liu (aborted : Bool) : (s.closePort aborted).liu = s.liu := rfl
@[simp] theorem State.answered_pen (c : HostCommand) (b : List Byte) (st : Status) (r : List Byte) :
    (s.answered c b st r).pen = s.pen := rfl
@[simp] theorem State.portClosed_pen : s.portClosed.pen = s.pen := rfl
@[simp] theorem State.closePort_pen (aborted : Bool) : (s.closePort aborted).pen = s.pen := rfl
@[simp] theorem State.answered_mst (c : HostCommand) (b : List Byte) (st : Status) (r : List Byte) :
    (s.answered c b st r).mst = s.mst := rfl
@[simp] theorem State.portClosed_mst : s.portClosed.mst = s.mst := rfl
@[simp] theorem State.closePort_mst (aborted : Bool) : (s.closePort aborted).mst = s.mst := rfl
@[simp] theorem State.answered_txs (c : HostCommand) (b : List Byte) (st : Status) (r : List Byte) :
    (s.answered c b st r).txs = s.txs := rfl
@[simp] theorem State.portClosed_txs : s.portClosed.txs = s.txs := rfl
@[simp] theorem State.closePort_txs (aborted : Bool) : (s.closePort aborted).txs = s.txs := rfl
@[simp] theorem State.answered_hmn (c : HostCommand) (b : List Byte) (st : Status) (r : List Byte) :
    (s.answered c b st r).hmn = s.hmn := rfl
@[simp] theorem State.portClosed_hmn : s.portClosed.hmn = s.hmn := rfl
@[simp] theorem State.closePort_hmn (aborted : Bool) : (s.closePort aborted).hmn = s.hmn := rfl
@[simp] theorem State.answered_stamp (c : HostCommand) (b : List Byte) (st : Status) (r : List Byte) :
    (s.answered c b st r).stamp = s.stamp := rfl
@[simp] theorem State.portClosed_stamp : s.portClosed.stamp = s.stamp := rfl
@[simp] theorem State.closePort_stamp (aborted : Bool) : (s.closePort aborted).stamp = s.stamp := rfl
@[simp] theorem State.answered_pending (c : HostCommand) (b : List Byte) (st : Status) (r : List Byte) :
    (s.answered c b st r).pending = s.pending := rfl
@[simp] theorem State.portClosed_pending : s.portClosed.pending = s.pending := rfl
@[simp] theorem State.closePort_pending (aborted : Bool) : (s.closePort aborted).pending = s.pending := rfl
@[simp] theorem State.answered_inputs (c : HostCommand) (b : List Byte) (st : Status) (r : List Byte) :
    (s.answered c b st r).inputs = s.inputs := rfl
@[simp] theorem State.portClosed_inputs : s.portClosed.inputs = s.inputs := rfl
@[simp] theorem State.closePort_inputs (aborted : Bool) : (s.closePort aborted).inputs = s.inputs := rfl

/-! ### The disabled LIU -/

@[simp] theorem State.disableLiu_inReset : s.disableLiu.inReset = s.inReset := rfl
@[simp] theorem State.disableLiu_control : s.disableLiu.control = s.control := rfl
@[simp] theorem State.disableLiu_liu : s.disableLiu.liu = .disabled := rfl
@[simp] theorem State.disableLiu_pen : s.disableLiu.pen = s.pen := rfl
@[simp] theorem State.disableLiu_mst : s.disableLiu.mst = s.mst := rfl
@[simp] theorem State.disableLiu_txs : s.disableLiu.txs = { s.txs with staged := none, presented := none } := rfl
@[simp] theorem State.disableLiu_hmn : s.disableLiu.hmn = s.hmn := rfl
@[simp] theorem State.disableLiu_hpt : s.disableLiu.hpt = s.hpt := rfl
@[simp] theorem State.disableLiu_stamp : s.disableLiu.stamp = s.stamp := rfl
@[simp] theorem State.disableLiu_pending : s.disableLiu.pending = s.pending := rfl
@[simp] theorem State.disableLiu_inputs : s.disableLiu.inputs = s.inputs := rfl

end Sys2Proof.Machine
end

