-- ==== Sys2Proof/Laws/Events.lean ====
section
/-! SUPPORT. What taking an event does, said once: `event`, the finish of every event, and the host commands. -/

namespace Sys2Proof.Machine

/-! ### The finish of an event -/

/-- The contention opportunity changes the presented candidate and nothing else (R98). -/
theorem State.contentionOpportunity_eq (s : State) :
    ∃ c, s.contentionOpportunity = { s with txs := { s.txs with presented := c } } := by
  unfold State.contentionOpportunity
  split
  · exact ⟨_, rfl⟩
  · exact ⟨s.txs.presented, rfl⟩

/-- What every event ends with changes the two outputs and nothing else (R98, R169). -/
theorem State.finish_eq (s : State) :
    ∃ c b, s.finish = { s with txs := { s.txs with presented := c }, hpt := { s.hpt with irqnLow := b } } := by
  obtain ⟨c, hc⟩ := s.contentionOpportunity_eq
  refine ⟨c, State.irqCause s.contentionOpportunity, ?_⟩
  simp only [State.finish, State.evaluateIrq, State.onHpt, hc]

/-- But for the two outputs, a finished state is the state it finished. -/
@[simp] theorem State.finish_withoutOutputs (s : State) : s.finish.withoutOutputs = s.withoutOutputs := by
  obtain ⟨c, b, h⟩ := s.finish_eq
  rw [h]
  rfl

@[simp] theorem State.finish_inReset (s : State) : s.finish.inReset = s.inReset := by
  obtain ⟨c, b, h⟩ := s.finish_eq
  rw [h]

@[simp] theorem State.finish_control (s : State) : s.finish.control = s.control := by
  obtain ⟨c, b, h⟩ := s.finish_eq
  rw [h]

@[simp] theorem State.finish_liu (s : State) : s.finish.liu = s.liu := by
  obtain ⟨c, b, h⟩ := s.finish_eq
  rw [h]

@[simp] theorem State.finish_pen (s : State) : s.finish.pen = s.pen := by
  obtain ⟨c, b, h⟩ := s.finish_eq
  rw [h]

@[simp] theorem State.finish_mst (s : State) : s.finish.mst = s.mst := by
  obtain ⟨c, b, h⟩ := s.finish_eq
  rw [h]

@[simp] theorem State.finish_hmn (s : State) : s.finish.hmn = s.hmn := by
  obtain ⟨c, b, h⟩ := s.finish_eq
  rw [h]

@[simp] theorem State.finish_pending (s : State) : s.finish.pending = s.pending := by
  obtain ⟨c, b, h⟩ := s.finish_eq
  rw [h]

@[simp] theorem State.finish_inputs (s : State) : s.finish.inputs = s.inputs := by
  obtain ⟨c, b, h⟩ := s.finish_eq
  rw [h]

/-- After an event IRQn is low exactly while a cause holds (R169). -/
theorem State.finish_irqLaw (s : State) : s.finish.IrqLaw := rfl

/-- The choice does not look at the candidate presented so far. -/
theorem State.choose_presented (s : State) (c : Option Candidate) :
    { s with txs := { s.txs with presented := c } }.choose = s.choose := rfl

/-- After an event what TXS presents is the winner of the choice (R98). -/
theorem State.finish_presentedLaw (s : State) : s.finish.PresentedLaw := by
  intro hidle hstaged
  have h1 : s.lineIdle = true := by simpa [State.lineIdle, State.enabled] using hidle
  have h2 : s.txs.staged = none := by
    obtain ⟨c, b, h⟩ := s.finish_eq
    rw [h] at hstaged
    exact hstaged
  simp only [State.finish, State.contentionOpportunity, h1, h2, Option.isNone_none, Bool.and_self, if_true]
  rfl

/-! ### Events -/

/-- What an event can do: its effect with the finish where it reaches the part, and nothing at all where it does not
(log entry 3). -/
theorem event_cases {reaches : State → Bool} {effect : State → State} {s t : State} (h : event reaches effect s = .next t) :
    (s.inReset = false ∧ reaches s = true ∧ t = (effect s).finish) ∨ ((s.inReset = true ∨ reaches s = false) ∧ t = s) := by
  unfold event at h
  split at h
  next hc =>
    simp only [Bool.and_eq_true, Bool.not_eq_true'] at hc
    exact .inl ⟨hc.1, hc.2, (Host.Outcome.next.inj h).symm⟩
  next hc =>
    refine .inr ⟨?_, (Host.Outcome.next.inj h).symm⟩
    simp only [Bool.and_eq_true, Bool.not_eq_true'] at hc
    by_cases hr : s.inReset = true
    · exact .inl hr
    · exact .inr (by simpa [hr] using hc)

/-- An event that reaches the part leaves its effect, but for the two outputs. -/
theorem event_leaves {c : Instr} {reaches : State → Bool} {effect : State → State} {s u : State}
    (hc : exec c s = event reaches effect s) (hr : s.inReset = false) (h : reaches s = true)
    (hu : (effect s).withoutOutputs = u.withoutOutputs) : Leaves c s u :=
  ⟨(effect s).finish, by rw [hc, event, hr, h]; rfl, by rw [State.finish_withoutOutputs, hu]⟩

/-- An event that does not reach the part changes nothing (log entry 3). -/
theorem event_ignored {reaches : State → Bool} {effect : State → State} {s : State} (h : reaches s = false) :
    event reaches effect s = .next s := by
  simp [event, h]

/-- An event changes nothing while RSTn is held low (R141). -/
theorem event_held {reaches : State → Bool} {effect : State → State} {s : State} (h : s.inReset = true) :
    event reaches effect s = .next s := by
  simp [event, h]

/-! ### Host commands -/

/-- The port after the judgement of a command is the answered port. -/
theorem State.answered_eq (s : State) (c : HostCommand) (params : List Byte) (r : Reply) :
    (s.onHpt fun t => { t with port := (t.port.judged c params r).clock 0 })
      = s.answered c params r.status r.results := by
  simp [State.onHpt, State.answered, Port.clock, Port.judged, Reply.answer]

/-- A command whose parameters are complete is judged, and its transaction stands in ANSWER (R162). -/
theorem State.runCommand_complete (s : State) (c : HostCommand) (params : List Byte) (judge : Judgement)
    (h : params.length = paramsNeeded c params) :
    s.runCommand c params judge
      = (judge params s).1.answered c params (judge params s).2.status (judge params s).2.results := by
  have ht : params.take (paramsNeeded c params) = params := by rw [← h, List.take_length]
  simp only [State.runCommand, ht, h, Nat.lt_irrefl, if_false, Nat.sub_self]
  exact State.answered_eq _ _ _ _

/-- A command with fewer parameter bytes than it takes waits for the rest (R158). -/
theorem State.runCommand_short (s : State) (c : HostCommand) (params : List Byte) (judge : Judgement)
    (h : params.length < paramsNeeded c params) :
    s.runCommand c params judge = s.onHpt fun t => { t with port := t.port.awaitParams c params } := by
  simp only [State.runCommand, h, if_true]

/-- A host command in COMMAND with its parameters complete leaves what its judgement leaves, with the answer fixed. -/
theorem hostCommand_leaves {i : Instr} {c : HostCommand} {params : List Byte} {judge : Judgement} {s u : State}
    (hi : exec i s = hostCommand c params judge s) (hs : s.TakesCommand) (hp : params.length = paramsNeeded c params)
    (hu : ((judge params s).1.answered c params (judge params s).2.status (judge params s).2.results).withoutOutputs
        = u.withoutOutputs) : Leaves i s u :=
  event_leaves hi hs.1 (by simp [State.takesCode, State.portIs, Port.atByte, hs.2.1, hs.2.2.1, hs.2.2.2]) (by rw [State.runCommand_complete s c params judge hp, hu])

end Sys2Proof.Machine
end

