-- ==== Sys2Proof/Laws/Exec.lean ====
section
/-! SUPPORT. Every command as the event it is: when it reaches the part, and the effect it then has. -/

namespace Sys2Proof.Machine

theorem exec_pinReset (s : State) :
    exec .pinReset s = .next { State.held with pending := s.pending, inputs := s.inputs } := rfl

theorem exec_rstnRelease (straps : Address) (csnLow : Bool) (s : State) :
    exec (.rstnRelease straps csnLow) s
      = .next (if s.inReset
          then { State.initial straps (phaseAtRelease csnLow) with pending := s.pending, inputs := s.inputs }
          else s) := rfl

theorem exec_timeStampTick (s : State) :
    exec .timeStampTick s = event (fun _ => true) State.tick s := rfl

theorem exec_transactionStart (s : State) :
    exec .transactionStart s = event (State.portIs .waiting) State.startTransaction s := rfl

theorem exec_transactionEnd (s : State) :
    exec .transactionEnd s = event (fun s => s.hpt.port.phase.judged) State.endTransaction s := rfl

theorem exec_transactionCutShort (s : State) :
    exec .transactionCutShort s = event (fun s => s.hpt.port.phase.unfinished) (State.closePort true) s := rfl

theorem exec_configure (params : List Byte) (s : State) :
    exec (.configure params) s = hostCommand .configure params judgeConfigure s := rfl

theorem exec_start (s : State) :
    exec .start s = hostCommand .start [] judgeStart s := rfl

theorem exec_leave (s : State) :
    exec .leave s = hostCommand .leave [] judgeLeave s := rfl

theorem exec_reset (s : State) :
    exec .reset s = hostCommand .reset [] judgeReset s := rfl

theorem exec_submit (params : List Byte) (s : State) :
    exec (.submit params) s = hostCommand .submit params judgeSubmit s := rfl

theorem exec_cancel (handle : Byte) (s : State) :
    exec (.cancel handle) s = hostCommand .cancel [handle] judgeCancel s := rfl

theorem exec_readMessage (s : State) :
    exec .readMessage s = hostCommand .readMessage [] judgeReadMessage s := rfl

theorem exec_readCompletion (s : State) :
    exec .readCompletion s = hostCommand .readCompletion [] judgeReadCompletion s := rfl

theorem exec_readNotice (s : State) :
    exec .readNotice s = hostCommand .readNotice [] judgeReadNotice s := rfl

theorem exec_readPeer (address : Byte) (s : State) :
    exec (.readPeer address) s = hostCommand .readPeer [address] judgeReadPeer s := rfl

theorem exec_readStatus (s : State) :
    exec .readStatus s = hostCommand .readStatus [] judgeReadStatus s := rfl

theorem exec_readCounters (s : State) :
    exec .readCounters s = hostCommand .readCounters [] judgeReadCounters s := rfl

theorem exec_unknownCommand (code : Byte) (s : State) :
    exec (.unknownCommand code) s
      = event (fun s => s.takesCode && !isCommandCode code)
          (State.runCommand .unknown [] judgeUnknown) s := rfl

theorem exec_lineIdle (s : State) :
    exec .lineIdle s = event (State.lineIs .recovering) (State.onLiu Liu.becomeIdle) s := rfl

theorem exec_contentionStarted (s : State) :
    exec .contentionStarted s = event State.canStage State.stage s := rfl

theorem exec_sentOk (stagingFirst : Bool) (s : State) :
    exec (.sentOk stagingFirst) s = event State.isTransmitting (State.sentOk stagingFirst) s := rfl

theorem exec_lostContention (bit : Fin 7) (s : State) :
    exec (.lostContention bit) s = event (State.canLoseAt bit) (State.loseContention bit) s := rfl

theorem exec_readbackFault (element : Nat) (scoreFirst : Bool) (s : State) :
    exec (.readbackFault element scoreFirst) s
      = event (State.canFault element) (State.readbackFault element scoreFirst) s := rfl

theorem exec_checkError (s : State) :
    exec .checkError s = event (State.lineIs .receiving) State.checkError s := rfl

theorem exec_goodFrame (order : FrameOrder) (contention : BitVec 7) (bytes : List Byte) (s : State) :
    exec (.goodFrame order contention bytes) s
      = event (State.lineIs .receiving) (State.receive order contention bytes) s := rfl

theorem exec_joinTimerExpiry (p : Station) (s : State) :
    exec (.joinTimerExpiry p) s = event (State.joinMayExpire p) (State.joinExpiry p) s := rfl

theorem exec_silenceTimerExpiry (p : Station) (s : State) :
    exec (.silenceTimerExpiry p) s = event (State.silenceMayExpire p) (State.losePeer p .silence) s := rfl

theorem exec_ackTimerExpiry (p : Station) (s : State) :
    exec (.ackTimerExpiry p) s = event (State.ackMayExpire p) (State.ackExpiry p) s := rfl

theorem exec_ackDelayExpiry (p : Station) (s : State) :
    exec (.ackDelayExpiry p) s = event (State.ackDelayMayExpire p) (State.ackDelayExpiry p) s := rfl

theorem exec_helloTimerExpiry (s : State) :
    exec .helloTimerExpiry s = event State.helloMayExpire State.startHello s := rfl

theorem exec_holdoffExpiry (s : State) :
    exec .holdoffExpiry s = event State.holdoffMayExpire State.rejoin s := rfl

theorem exec_leaveLimitExpiry (s : State) :
    exec .leaveLimitExpiry s = event State.leaveLimitMayExpire (State.endLeaving true) s := rfl

theorem exec_receptionStart (s : State) :
    exec .receptionStart s = event State.lineIdle (State.onLiu Liu.beginReception) s := rfl

theorem exec_chipSelectRiseAfterReset (s : State) :
    exec .chipSelectRiseAfterReset s
      = event (State.portIs .awaitingRise) (fun s => s.closePort s.hpt.port.aborted) s := rfl

end Sys2Proof.Machine
end

