-- ==== Sys2Proof/Laws/Health.lean ====
section
/-! SUPPORT. The health monitor, said once: what a report to it can do. -/

namespace Sys2Proof.Machine

/-- What a report can do: nothing; a new score; a new score with a new level and its notice; or entry into DETACHED (R127,
R129). -/
theorem State.healthReport_cases (r : HealthReport) (s : State) :
    s.healthReport r = s
      ∨ (s.isRunning = true ∧ ∃ scored, scored = s.onHmn (fun m => { m with score := scoreAfter r m.score })
          ∧ (s.healthReport r = scored
            ∨ s.healthReport r = (scored.onHmn fun m => { m with level := .guarded }).raise (.healthChanged .guarded)
            ∨ s.healthReport r = (scored.onHmn fun m => { m with level := .sound }).raise (.healthChanged .sound)
            ∨ 192 ≤ scoreAfter r s.hmn.score ∧ s.healthReport r = scored.enterDetached)) := by
  unfold State.healthReport
  split
  next h =>
    refine .inr ⟨by simp_all, _, rfl, ?_⟩
    unfold State.evaluateLevel
    split
    · exact .inl rfl
    · exact .inr (.inl rfl)
    · exact .inr (.inr (.inl rfl))
    · next hl =>
      refine .inr (.inr (.inr ⟨?_, rfl⟩))
      by_contra c
      have c : ¬192 ≤ (s.onHmn fun m => { m with score := scoreAfter r m.score }).hmn.score := c
      simp only [levelStep, c, if_false] at hl
      split at hl <;> split at hl <;> cases hl
  next => exact .inl rfl

/-- Outside RUNNING a report changes nothing (R128). -/
theorem State.healthReport_notRunning {r : HealthReport} {s : State} (h : s.isRunning = false) : s.healthReport r = s := by
  simp [State.healthReport, h]

/-- A score stays within 0 to 255 (R126). -/
theorem scoreAfter_le {r : HealthReport} {n : Nat} (h : n ≤ 255) : scoreAfter r n ≤ 255 := by
  cases r <;> simp only [scoreAfter, Config.scoreMax] <;> omega

end Sys2Proof.Machine
end

