-- ==== Sys2Proof/Laws/Inputs.lean ====
section
/-! SUPPORT. What a bit time and a byte of the port can do, said once; and that each does what the row of the event it
completes does. -/

namespace Sys2Proof.Machine

/-! ### The line interface unit -/

@[simp] theorem Liu.matchTo_staging (n : Nat) (l : Liu) : (l.matchTo n).staging = l.staging := rfl
@[simp] theorem Liu.matchTo_matched (n : Nat) (l : Liu) : (l.matchTo n).matched = n := rfl
@[simp] theorem Liu.matchTo_idleCount (n : Nat) (l : Liu) : (l.matchTo n).idleCount = l.idleCount := rfl
@[simp] theorem Liu.matchTo_assembly (n : Nat) (l : Liu) : (l.matchTo n).assembly = l.assembly := rfl
@[simp] theorem Liu.matchTo_elements (n : Nat) (l : Liu) : (l.matchTo n).elements = l.elements := rfl
@[simp] theorem Liu.matchTo_ltxLow (n : Nat) (l : Liu) : (l.matchTo n).ltxLow = (l.elements[n]? == some false) := rfl
@[simp] theorem Liu.matchTo_line (n : Nat) (l : Liu) : (l.matchTo n).line = if 8 ≤ n then .sending else l.line := rfl

/-- What SENT_OK leaves of the LIU, whatever part of the frame had matched before (R22). -/
theorem Liu.sentOk_eq (l : Liu) :
    l.sentOk = { l with line := .idle, idleCount := 11, staging := none, matched := 0, ltxLow := false } := rfl

/-- What a readback fault leaves of the LIU, at whichever element it falls (R8). -/
theorem Liu.fault_eq (n : Nat) (l : Liu) :
    l.fault n = { l with line := .recovering, idleCount := 0, staging := none, matched := 0, ltxLow := false } := rfl

/-- The idle count stays within 11 (R3). -/
theorem countSample_le (recessive : Bool) (n : Nat) : countSample recessive n ≤ 11 := by
  unfold countSample Config.idleSamples
  split <;> omega

/-! ### Reception -/

/-- A frame received whole from its row, with nothing sampled before, is the row's frame (R17). -/
theorem assembledBytes_fresh (bits : List Bool) (bytes : List Byte) : assembledBytes ⟨bits, [], []⟩ bytes = bytes := by
  have h : ∀ b : Byte, overlay [] b = b := by decide +kernel
  cases bytes with
  | nil => rfl
  | cons b rest => simp [assembledBytes, h]

/-- A byte phase sampled whole is what was sampled (R17). -/
theorem assembledBytes_whole (a : Assembly) : assembledBytes a a.bytes = a.bytes := by simp [assembledBytes]

/-- What one element can do to a frame under reception: the contention value, the byte or the end marker grows by it, a byte
is stored, the frame is complete, or a check fails (R17, R18). -/
theorem Assembly.take_cases (recessive : Bool) (a : Assembly) :
    (a.bits.length < 7 ∧ a.take recessive = .continues { a with bits := a.bits ++ [recessive] })
      ∨ (¬a.bits.length < 7 ∧ phaseComplete a.bytes = true
          ∧ (recessive = true ∧ a.tail.length < 10 ∧ a.take recessive = .continues { a with tail := a.tail ++ [true] }
            ∨ recessive = true ∧ 10 ≤ a.tail.length ∧ a.take recessive = .complete
            ∨ recessive = false ∧ a.take recessive = .checkError))
      ∨ (¬a.bits.length < 7 ∧ phaseComplete a.bytes = false
          ∧ (a.tail = [] ∧ recessive = true ∧ a.take recessive = .checkError
            ∨ a.tail.length < 9 ∧ a.take recessive = .continues { a with tail := a.tail ++ [recessive] }
            ∨ 9 ≤ a.tail.length
              ∧ (a.take recessive = .checkError
                ∨ recessive = true
                  ∧ storedBytesPass (contentionOfBits a.bits) (a.bytes ++ [byteOfBits (a.tail.drop 1)]) = true
                  ∧ a.take recessive
                    = .continues { a with bytes := a.bytes ++ [byteOfBits (a.tail.drop 1)], tail := [] }))) := by
  by_cases hb : a.bits.length < 7
  · exact .inl ⟨hb, by simp [Assembly.take, hb]⟩
  refine .inr ?_
  by_cases hp : phaseComplete a.bytes = true
  · refine .inl ⟨hb, hp, ?_⟩
    simp only [Assembly.take, hb, hp, if_true, if_false, Assembly.takeMarkerElement]
    cases recessive
    · simp
    · by_cases ht : a.tail.length < 10
      · simp [ht]
      · simp [ht, Nat.not_lt.mp ht]
  · refine .inr ⟨hb, by simpa using hp, ?_⟩
    simp only [Assembly.take, hb, hp, if_false, Assembly.takeByteElement]
    by_cases ht : a.tail = []
    · cases recessive <;> simp [ht]
    · by_cases h9 : a.tail.length < 9
      · simp [ht, h9]
      · simp only [ht, h9, if_false, Nat.not_lt.mp h9, true_and, false_and, false_or]
        by_cases hs : (recessive && storedBytesPass (contentionOfBits a.bits) (a.bytes ++ [byteOfBits (a.tail.drop 1)])) = true
        · simp only [Bool.and_eq_true] at hs
          exact .inr ⟨hs.1, hs.2, by simp only [hs.1, hs.2, Bool.and_self, if_true]; rfl⟩
        · exact .inl (by simp only [hs]; rfl)

/-! ### Events between commands -/

/-- A bit time is an event of the enabled LIU (R11). -/
theorem takeInput_bitTime (recessive : Bool) (order : FrameOrder) (s : State) :
    takeInput (.bitTime recessive order) s = event State.enabled (State.bitTime recessive order) s := rfl

/-- A byte is an event of the selected port, between two bytes (R157). -/
theorem takeInput_mosiByte (byte : Byte) (s : State) :
    takeInput (.mosiByte byte) s = event (fun s => s.hpt.port.takesByte) (State.clockByte byte) s := rfl

/-- A rising edge of SCLK is an event of the selected port with SCLK low (R157). -/
theorem takeInput_sclkRise (mosi : Bool) (s : State) :
    takeInput (.sclkRise mosi) s = event (fun s => s.hpt.port.takesRise) (State.clockRise mosi) s := rfl

/-- A falling edge of SCLK is an event of the selected port with SCLK high (R157). -/
theorem takeInput_sclkFall (s : State) :
    takeInput .sclkFall s = event (fun s => s.hpt.port.takesFall) State.clockFall s := rfl

/-- A rising edge within a byte samples one bit (R157). -/
theorem State.clockRise_within (s : State) (mosi : Bool) (h : s.hpt.port.bits.length < 7) :
    s.clockRise mosi = (s.withBits (s.hpt.port.bits ++ [mosi])).withHeld (some s.hpt.port.outBit) := by
  have h' : (s.hpt.port.bits ++ [mosi]).length < 8 := by rw [List.length_append, List.length_singleton]; omega
  simp only [State.clockRise, h', if_true]

/-- The eighth rising edge completes the byte (R157). -/
theorem State.clockRise_eighth (s : State) (mosi : Bool) (h : s.hpt.port.bits.length = 7) :
    s.clockRise mosi = ((s.withBits []).clockByte (byteOfLine (s.hpt.port.bits ++ [mosi]))).withHeld
      (some s.hpt.port.outBit) := by
  have h' : ¬(s.hpt.port.bits ++ [mosi]).length < 8 := by rw [List.length_append, List.length_singleton]; omega
  simp only [State.clockRise, h', if_false]

/-- What reaches the part leaves its effect, but for the two outputs. -/
theorem takes_event {i : Input} {reaches : State → Bool} {effect : State → State} {s u : State}
    (hi : takeInput i s = event reaches effect s) (hr : s.inReset = false) (h : reaches s = true)
    (hu : (effect s).withoutOutputs = u.withoutOutputs) : Takes i s u :=
  ⟨(effect s).finish, by rw [hi, event, hr, h]; rfl, by rw [State.finish_withoutOutputs, hu]⟩

/-- A bit time or byte and a command that have one effect leave one state. -/
theorem takesAs_event {i : Input} {c : Instr} {reaches reaches' : State → Bool} {effect effect' : State → State} {s : State}
    (hi : takeInput i s = event reaches effect s) (hc : exec c s = event reaches' effect' s) (hr : s.inReset = false)
    (h : reaches s = true) (h' : reaches' s = true) (he : effect s = effect' s) : TakesAs i s c :=
  ⟨(effect s).finish, by rw [hi, event, hr, h]; rfl, by rw [hc, event, hr, h', ← he]; rfl⟩

/-- An element read back as sent, other than the last, goes on to the next (R7). -/
theorem State.sampleReadback_match {s : State} {recessive : Bool} {order : FrameOrder}
    (h : s.liu.elements[s.liu.matched]? = some recessive) (hn : s.liu.matched + 1 < s.liu.elements.length) :
    s.sampleReadback recessive order
      = s.onLiu fun l => (l.matchTo (l.matched + 1)).countSample recessive := by
  simp only [State.sampleReadback, h, hn, if_true]

/-- The last element read back as sent is SENT_OK (R22). -/
theorem State.sampleReadback_last {s : State} {recessive : Bool} {order : FrameOrder}
    (h : s.liu.elements[s.liu.matched]? = some recessive) (hn : ¬s.liu.matched + 1 < s.liu.elements.length) :
    s.sampleReadback recessive order = s.sentOk !order.scoreFirst := by
  simp only [State.sampleReadback, h, hn, if_true, if_false]

/-- The code byte that starts a command without parameters has the effect of its row (R158, R160). -/
theorem State.takeParams_none (s : State) {c : HostCommand} (h : paramsNeeded c [] = 0) :
    s.takeParams c [] = s.runCommand c [] (judgementOf c) := by
  simp [State.takeParams, State.runCommand, h, State.takeJudgement, State.onHpt, Port.clock, Port.judged, Reply.answer]

end Sys2Proof.Machine
end

