-- ==== Sys2Proof/Laws/Scheduler.lean ====
section
/-! SUPPORT. The scheduler operations, said once: what staging can do, and what each outcome of a staged frame leaves of the
staging record. -/

namespace Sys2Proof.Machine

/-- What the staging moment can do: nothing, or the LIU takes the frame built for the presented candidate and TXS its record
(R6, R12, R105). -/
theorem State.stage_cases (s : State) :
    s.stage = s
      ∨ ∃ c u f r, s.txs.presented = some c ∧ s.buildFrame c = some (u, f, r)
          ∧ s.stage = { s with
              liu := { s.liu with line := .contending, staging := some (s.stagedCopy u f), matched := 0, ltxLow := true }
              txs := { s.txs with staged := some r, presented := none } } := by
  unfold State.stage
  cases hp : s.txs.presented with
  | none => exact .inl rfl
  | some c =>
    cases hb : s.buildFrame c with
    | none => exact .inl (by simp [hb])
    | some x => exact .inr ⟨c, x.1, x.2.1, x.2.2, rfl, by rw [hb], by simp [hb]⟩

/-- Choosing and staging at once does nothing, or stages from the contention opportunity (R98, R131). -/
theorem State.chooseAndStage_cases (s : State) :
    s.chooseAndStage = s
      ∨ s.lineIdle = true ∧ s.txs.staged = none ∧ s.chooseAndStage = s.contentionOpportunity.stage := by
  unfold State.chooseAndStage
  split
  next h =>
    simp only [Bool.and_eq_true, Option.isNone_iff_eq_none] at h
    exact .inr ⟨h.1, h.2, rfl⟩
  next => exact .inl rfl

/-- After a lost contention or an abort nothing is staged (R110). -/
theorem State.takeFailure_staged (s : State) : s.takeFailure.txs.staged = none := by
  unfold State.takeFailure
  split <;> rfl

/-- After SENT_OK nothing is staged (R109). -/
theorem State.takeSentOk_staged (s : State) : s.takeSentOk.txs.staged = none := by
  unfold State.takeSentOk
  split
  next h => exact h
  all_goals first
    | rfl
    | (split
       · unfold State.endLeaving; rfl
       · rfl)

end Sys2Proof.Machine
end

