-- ==== Sys2Proof/Laws/Slots.lean ====
section
/-! SUPPORT. The slot operations, said once: reading a slot after a write, a completion, a run of completions, the marking
of a peer's SENT slots, and the lists of a peer's slots. -/

namespace Sys2Proof.Machine

/-! ### Reading a slot -/

/-- Reading a slot after one slot was replaced. -/
theorem Txs.slot_setSlot (t : Txs) (h k : Handle) (x : Slot) :
    (t.setSlot h x).slot k = if h = k then x else t.slot k := by
  simp only [Txs.slot, Txs.setSlot]
  by_cases e : h = k
  · subst e; simp
  · rw [if_neg e]
    exact Vector.getElem_set_ne h.isLt k.isLt (fun c => e (Fin.ext c))

@[simp] theorem Txs.setSlot_order (t : Txs) (h : Handle) (x : Slot) : (t.setSlot h x).order = t.order := rfl
@[simp] theorem Txs.setSlot_completions (t : Txs) (h : Handle) (x : Slot) :
    (t.setSlot h x).completions = t.completions := rfl
@[simp] theorem Txs.setSlot_staged (t : Txs) (h : Handle) (x : Slot) : (t.setSlot h x).staged = t.staged := rfl
@[simp] theorem Txs.setSlot_presented (t : Txs) (h : Handle) (x : Slot) : (t.setSlot h x).presented = t.presented := rfl
@[simp] theorem Txs.setSlot_controlPtr (t : Txs) (h : Handle) (x : Slot) : (t.setSlot h x).controlPtr = t.controlPtr := rfl

/-- Two schedulers with the same slots read alike. -/
theorem Txs.slot_congr {t u : Txs} (h : u.slots = t.slots) (k : Handle) : u.slot k = t.slot k := by
  rw [Txs.slot, Txs.slot, h]

/-! ### One completion -/

/-- What a completion does to a QUEUED or SENT slot (R92). -/
theorem Txs.complete_open {t : Txs} {h : Handle} (o : SlotOutcome) (ho : (t.slot h).isOpen = true) :
    t.complete o h
      = { t.setSlot h ((t.slot h).completed o) with order := t.order.erase h, completions := t.completions ++ [h] } := by
  rw [Txs.complete, if_pos ho]

/-- A slot that is neither QUEUED nor SENT does not complete (R90). -/
theorem Txs.complete_closed {t : Txs} {h : Handle} (o : SlotOutcome) (ho : (t.slot h).isOpen = false) :
    t.complete o h = t := by
  rw [Txs.complete, ho]; rfl

/-- Reading a slot after a completion. -/
theorem Txs.slot_complete (t : Txs) (h k : Handle) (o : SlotOutcome) :
    (t.complete o h).slot k = if h = k then (t.slot h).completed o else t.slot k := by
  cases ho : (t.slot h).isOpen with
  | true => rw [t.complete_open o ho]; exact t.slot_setSlot h k _
  | false =>
    rw [t.complete_closed o ho]
    by_cases e : h = k
    · subst e
      rw [if_pos rfl]
      cases hs : t.slot h <;> simp_all [Slot.isOpen, Slot.completed]
    · rw [if_neg e]

@[simp] theorem Txs.complete_staged (t : Txs) (h : Handle) (o : SlotOutcome) : (t.complete o h).staged = t.staged := by
  unfold Txs.complete; split <;> rfl
@[simp] theorem Txs.complete_presented (t : Txs) (h : Handle) (o : SlotOutcome) :
    (t.complete o h).presented = t.presented := by
  unfold Txs.complete; split <;> rfl
@[simp] theorem Txs.complete_controlPtr (t : Txs) (h : Handle) (o : SlotOutcome) :
    (t.complete o h).controlPtr = t.controlPtr := by
  unfold Txs.complete; split <;> rfl

/-! ### A run of completions -/

/-- The slots of a run of completions of distinct QUEUED or SENT slots: those of the run are completed in place, they join
the completion queue in the order of the run, they leave the submission order list, and nothing else changes (R92). -/
theorem Txs.completeAll_open (o : SlotOutcome) (hs : List Handle) (t : Txs) (hn : hs.Nodup) (ht : t.order.Nodup)
    (ho : ∀ h ∈ hs, (t.slot h).isOpen = true) :
    (∀ k, (t.completeAll o hs).slot k = if k ∈ hs then (t.slot k).completed o else t.slot k)
      ∧ (t.completeAll o hs).completions = t.completions ++ hs
      ∧ (t.completeAll o hs).order = t.order.filter (fun h => !hs.contains h)
      ∧ (t.completeAll o hs).staged = t.staged ∧ (t.completeAll o hs).presented = t.presented
      ∧ (t.completeAll o hs).controlPtr = t.controlPtr := by
  induction hs generalizing t with
  | nil => simp [Txs.completeAll]
  | cons h hs ih =>
    obtain ⟨hmem, hn⟩ := List.nodup_cons.1 hn
    have hh := ho h (by simp)
    have e : t.completeAll o (h :: hs) = (t.complete o h).completeAll o hs := rfl
    have hord : (t.complete o h).order = t.order.erase h := by rw [t.complete_open o hh]
    have hslot : ∀ k ∈ hs, (t.complete o h).slot k = t.slot k := fun k hk => by
      rw [t.slot_complete, if_neg (by rintro rfl; exact hmem hk)]
    obtain ⟨i1, i2, i3, i4, i5, i6⟩ := ih (t.complete o h) hn (by rw [hord]; exact ht.erase h)
      (fun k hk => by rw [hslot k hk]; exact ho k (by simp [hk]))
    rw [e]
    refine ⟨fun k => ?_, ?_, ?_, by rw [i4]; simp, by rw [i5]; simp, by rw [i6]; simp⟩
    · rw [i1, t.slot_complete]
      by_cases c : h = k
      · subst c
        simp [hmem]
      · simp only [if_neg c, List.mem_cons, Ne.symm c, false_or]
    · rw [i2, t.complete_open o hh]
      simp
    · rw [i3, hord, ht.erase_eq_filter, List.filter_filter]
      congr 1
      funext x
      by_cases c : x = h <;> simp [c]

/-! ### The lists of a peer's slots -/

/-- A slot bears at most one seq. -/
theorem Slot.isSentAs_inj {p : Station} {q q' : Seq} {x : Slot} (h : x.isSentAs p q = true) (h' : x.isSentAs p q' = true) :
    q = q' := by
  cases x <;> simp_all [Slot.isSentAs]

/-- A SENT slot of a peer is one that bears some seq. -/
theorem Slot.isSentTo_iff {p : Station} {x : Slot} : x.isSentTo p = true ↔ ∃ q, x.isSentAs p q = true := by
  cases x <;> simp [Slot.isSentTo, Slot.isSentAs]

/-- A SENT slot of a peer is QUEUED or SENT. -/
theorem Slot.isOpen_of_isSentAs {p : Station} {q : Seq} {x : Slot} (h : x.isSentAs p q = true) : x.isOpen = true := by
  cases x <;> simp_all [Slot.isOpen, Slot.isSentAs]

/-- A QUEUED slot of a peer is QUEUED or SENT. -/
theorem Slot.isOpen_of_isQueuedTo {p : Station} {x : Slot} (h : x.isQueuedTo p = true) : x.isOpen = true := by
  cases x <;> simp_all [Slot.isOpen, Slot.isQueuedTo]

/-- The SENT slots in a span of sequence numbers (R30, R51). -/
theorem Txs.mem_sentInSequence {t : Txs} {p : Station} {start : Seq} {n : Nat} {h : Handle} :
    h ∈ t.sentInSequence p start n
      ↔ ∃ k < n, h ∈ t.order ∧ (t.slot h).isSentAs p (start + BitVec.ofNat 6 k) = true := by
  simp [Txs.sentInSequence]

/-- A span of at most 64 sequence numbers reaches no slot twice. -/
theorem Txs.sentInSequence_nodup {t : Txs} (ht : t.order.Nodup) (p : Station) (start : Seq) {n : Nat} (hn : n ≤ 64) :
    (t.sentInSequence p start n).Nodup := by
  rw [Txs.sentInSequence, List.nodup_flatMap]
  refine ⟨fun k _ => ht.filter _, ?_⟩
  refine (List.nodup_range (n := n)).pairwise_of_forall_ne fun a ha b hb hab => ?_
  intro h ha' hb'
  have h1 := (List.mem_filter.1 ha').2
  have h2 := (List.mem_filter.1 hb').2
  have e := Slot.isSentAs_inj h1 h2
  have : BitVec.ofNat 6 a = BitVec.ofNat 6 b := by simpa using e
  have := congrArg BitVec.toNat this
  simp only [BitVec.toNat_ofNat, List.mem_range] at this ha hb
  omega

/-- A span of 64 sequence numbers reaches every SENT slot of the peer (R30, R31). -/
theorem Txs.mem_sentInSequence_all {t : Txs} {p : Station} {start : Seq} {h : Handle} :
    h ∈ t.sentInSequence p start 64 ↔ h ∈ t.order ∧ (t.slot h).isSentTo p = true := by
  rw [Txs.mem_sentInSequence, Slot.isSentTo_iff]
  constructor
  · rintro ⟨k, _, ho, hs⟩
    exact ⟨ho, _, hs⟩
  · rintro ⟨ho, q, hs⟩
    refine ⟨(q - start).toNat, (q - start).isLt, ho, ?_⟩
    rw [BitVec.ofNat_toNat]
    have : start + BitVec.setWidth 6 (q - start) = q := by simp
    rw [this]
    exact hs

end Sys2Proof.Machine
end

