-- ==== Sys2Proof/Laws/Sessions.lean ====
section
/-! SUPPORT. The session operations, said once: what a restart and an end complete, and the entries they leave. -/

namespace Sys2Proof.Machine

/-! ### Completions of a restart and of an end -/

/-- A QUEUED slot of a peer is none of its SENT slots. -/
theorem Txs.not_sent_of_queued {t : Txs} {p : Station} {start : Seq} {h : Handle} (hq : (t.slot h).isQueuedTo p = true) :
    h ∉ t.sentInSequence p start 64 := by
  intro hm
  have hs := (Txs.mem_sentInSequence_all.1 hm).2
  cases hx : t.slot h <;> simp_all [Slot.isQueuedTo, Slot.isSentTo]

/-- The staged QUEUED DATA slot of a peer, as the part of the submission order list that it is. -/
theorem Txs.stagedQueuedTo_eq {t : Txs} (ht : t.SlotLaw) (p : Station) :
    t.stagedQueuedTo p = t.order.filter fun h => (t.slot h).isQueuedTo p && t.stagedHandle == some h := by
  unfold Txs.stagedQueuedTo
  cases hs : t.stagedHandle with
  | none => simp
  | some k =>
    by_cases hq : (t.slot k).isQueuedTo p = true
    · have hm := ((ht.2.2 k).1).2 (Slot.isOpen_of_isQueuedTo hq)
      have he : (fun h => (t.slot h).isQueuedTo p && some k == some h) = fun h => h == k := by
        funext h
        rw [Bool.eq_iff_iff]
        simp only [Bool.and_eq_true, beq_iff_eq, Option.some.injEq]
        exact ⟨fun c => c.2.symm, fun c => ⟨c ▸ hq, c.symm⟩⟩
      simp only [hq, if_true]
      rw [he, List.filter_beq, List.count_eq_one_of_mem ht.1 hm]
      rfl
    · simp only [hq]
      refine (List.filter_eq_nil_iff.2 fun h _ => ?_).symm
      simp only [Bool.and_eq_true, not_and, beq_iff_eq, Option.some.injEq]
      rintro h1 rfl
      exact hq h1

/-- What a session restart does to the slots: the SENT slots of the peer in sequence order, then a staged first send, all
INDOUBT, and nothing else (R30 step 2). -/
theorem Txs.voidSession_spec {t : Txs} (ht : t.SlotLaw) (p : Station) (oldest : Seq) {sent staged : List Handle}
    (hsent : sent = t.sentInSequence p oldest 64)
    (hstaged : staged = t.order.filter fun h => (t.slot h).isQueuedTo p && t.stagedHandle == some h) :
    (∀ k, (t.voidSession p oldest).slot k = if k ∈ sent ++ staged then (t.slot k).completed .inDoubt else t.slot k)
      ∧ (t.voidSession p oldest).completions = t.completions ++ sent ++ staged
      ∧ (t.voidSession p oldest).order = t.order.filter (fun h => !(sent ++ staged).contains h)
      ∧ (t.voidSession p oldest).staged = t.staged ∧ (t.voidSession p oldest).presented = t.presented
      ∧ (t.voidSession p oldest).controlPtr = t.controlPtr := by
  have hq : ∀ h ∈ staged, (t.slot h).isQueuedTo p = true := fun h hh => by
    rw [hstaged] at hh
    exact (Bool.and_eq_true _ _ ▸ (List.mem_filter.1 hh).2).1
  have hdis : ∀ h, (t.slot h).isQueuedTo p = true → h ∉ sent := fun h hh => hsent ▸ Txs.not_sent_of_queued hh
  have hopen : ∀ h ∈ sent, (t.slot h).isOpen = true := fun h hh =>
    ((ht.2.2 h).1).1 (Txs.mem_sentInSequence_all.1 (hsent ▸ hh)).1
  obtain ⟨a1, a2, a3, a4, a5, a6⟩ :=
    t.completeAll_open .inDoubt sent (hsent ▸ Txs.sentInSequence_nodup ht.1 _ _ (le_refl _)) ht.1 hopen
  have hst : (t.completeAll .inDoubt sent).stagedQueuedTo p = staged := by
    rw [hstaged, ← Txs.stagedQueuedTo_eq ht p]
    simp only [Txs.stagedQueuedTo, Txs.stagedHandle, a4]
    cases t.staged.bind StagingRecord.handle with
    | none => rfl
    | some k =>
      simp only [a1]
      by_cases hm : k ∈ sent
      · have h2 := hopen k hm
        have h3 : (t.slot k).isQueuedTo p = false := by
          by_contra c
          exact hdis k (by simpa using c) hm
        rw [if_pos hm, h3]
        cases hx : t.slot k <;> simp_all [Slot.completed, Slot.isQueuedTo]
      · rw [if_neg hm]
  have hv : t.voidSession p oldest = (t.completeAll .inDoubt sent).completeAll .inDoubt staged := by
    rw [← hst, hsent]; rfl
  obtain ⟨b1, b2, b3, b4, b5, b6⟩ :=
    (t.completeAll .inDoubt sent).completeAll_open .inDoubt staged (hstaged ▸ ht.1.filter _) (a3 ▸ ht.1.filter _)
      (fun h hh => by rw [a1, if_neg (hdis h (hq h hh))]; exact Slot.isOpen_of_isQueuedTo (hq h hh))
  rw [hv]
  refine ⟨fun k => ?_, by rw [b2, a2], ?_, by rw [b4, a4], by rw [b5, a5], by rw [b6, a6]⟩
  · rw [b1, a1]
    by_cases h1 : k ∈ sent <;> by_cases h2 : k ∈ staged
    · exact absurd h1 (hdis k (hq k h2))
    all_goals simp [h1, h2]
  · rw [b3, a3, List.filter_filter]
    congr 1
    funext h
    simp [Bool.and_comm, Bool.decide_or]

/-- What a session end does to the slots: the completions of a restart, then every other QUEUED DATA slot of the peer
PEER_GONE in submission order, and nothing else (R31 step 2). -/
theorem Txs.endSession_spec {t : Txs} (ht : t.SlotLaw) (p : Station) (oldest : Seq) {sent staged gone : List Handle}
    (hsent : sent = t.sentInSequence p oldest 64)
    (hstaged : staged = t.order.filter fun h => (t.slot h).isQueuedTo p && t.stagedHandle == some h)
    (hgone : gone = t.order.filter fun h => (t.slot h).isQueuedTo p && t.stagedHandle != some h) :
    (∀ k, (t.endSession p oldest).slot k =
        if k ∈ sent ++ staged then (t.slot k).completed .inDoubt
        else if k ∈ gone then (t.slot k).completed .peerGone else t.slot k)
      ∧ (∀ h ∈ gone, h ∉ sent ++ staged)
      ∧ (t.endSession p oldest).completions = t.completions ++ sent ++ staged ++ gone
      ∧ (t.endSession p oldest).order = t.order.filter (fun h => !(sent ++ staged ++ gone).contains h)
      ∧ (t.endSession p oldest).staged = t.staged ∧ (t.endSession p oldest).presented = t.presented
      ∧ (t.endSession p oldest).controlPtr = t.controlPtr := by
  obtain ⟨a1, a2, a3, a4, a5, a6⟩ := Txs.voidSession_spec ht p oldest hsent hstaged
  have hg : ∀ h ∈ gone, (t.slot h).isQueuedTo p = true ∧ h ∉ sent ++ staged := fun h hh => by
    rw [hgone] at hh
    have hh := (List.mem_filter.1 hh).2
    simp only [Bool.and_eq_true, bne_iff_ne, ne_eq] at hh
    refine ⟨hh.1, fun c => ?_⟩
    rcases List.mem_append.1 c with c | c
    · exact Txs.not_sent_of_queued hh.1 (hsent ▸ c)
    · rw [hstaged] at c
      have c := (List.mem_filter.1 c).2
      simp only [Bool.and_eq_true, beq_iff_eq] at c
      exact hh.2 c.2
  have hq : (t.voidSession p oldest).queuedFor p = gone := by
    simp only [Txs.queuedFor, a3, List.filter_filter, hgone]
    refine List.filter_congr fun h hh => ?_
    rw [a1]
    by_cases hm : h ∈ sent ++ staged
    · have hc : ((t.slot h).completed .inDoubt).isQueuedTo p = false := by cases t.slot h <;> rfl
      rw [if_pos hm, hc, Bool.false_and]
      symm
      simp only [Bool.and_eq_false_iff, bne_eq_false_iff_eq]
      by_cases h1 : (t.slot h).isQueuedTo p = true
      · rcases List.mem_append.1 hm with c | c
        · exact absurd (hsent ▸ c) (Txs.not_sent_of_queued h1)
        · rw [hstaged] at c
          have c := (List.mem_filter.1 c).2
          simp only [Bool.and_eq_true, beq_iff_eq] at c
          exact .inr c.2
      · exact .inl (by simpa using h1)
    · have hf : (sent ++ staged).contains h = false := by simpa using hm
      rw [if_neg hm, hf]
      by_cases h1 : (t.slot h).isQueuedTo p = true
      · have hne : t.stagedHandle ≠ some h := fun e => hm (List.mem_append_right _ (by simp [hstaged, hh, h1, e]))
        simp [h1, hne]
      · simp at h1
        simp [h1]
  have hv : t.endSession p oldest = (t.voidSession p oldest).completeAll .peerGone gone := by rw [← hq]; rfl
  obtain ⟨b1, b2, b3, b4, b5, b6⟩ :=
    (t.voidSession p oldest).completeAll_open .peerGone gone (hgone ▸ ht.1.filter _) (a3 ▸ ht.1.filter _)
      (fun h hh => by rw [a1, if_neg (hg h hh).2]; exact Slot.isOpen_of_isQueuedTo (hg h hh).1)
  rw [hv]
  refine ⟨fun k => ?_, fun h hh => (hg h hh).2, by rw [b2, a2], ?_, by rw [b4, a4], by rw [b5, a5], by rw [b6, a6]⟩
  · rw [b1, a1]
    by_cases h1 : k ∈ gone
    · rw [if_pos h1, if_neg (hg k h1).2, if_neg (hg k h1).2, if_pos h1]
    · rw [if_neg h1, if_neg h1]
  · rw [b3, a3, List.filter_filter]
    congr 1
    funext h
    simp [Bool.and_comm, Bool.decide_or, Bool.and_assoc]

/-- A scheduler whose staged frame, presented candidate and control pointer stand differs in slots and lists at most. -/
theorem Txs.eta_lists {t u : Txs} (h1 : t.staged = u.staged) (h2 : t.presented = u.presented)
    (h3 : t.controlPtr = u.controlPtr) :
    t = { u with slots := t.slots, order := t.order, completions := t.completions } := by
  cases t; cases u; simp_all

/-! ### Entries -/

/-- The entry a session end leaves, before the calling rule sets state and peerEpoch (R31). -/
theorem PeerEntry.ended_eq (e : PeerEntry) :
    e.ended = { PeerEntry.absentEntry with
      state := e.state, peerEpoch := e.peerEpoch, sessionCount := e.sessionCount + 1 } := rfl

/-- Every way of setting ackPending (R59). -/
theorem PeerEntry.setAckPending_cases (d : Nat) (e : PeerEntry) :
    (e.ackPending = true ∧ e.setAckPending d = e)
      ∨ (e.ackPending = false ∧ e.ackDelayTimer ≠ 0 ∧ e.setAckPending d = { e with ackPending := true })
      ∨ (e.ackPending = false ∧ e.ackDelayTimer = 0 ∧ d = 0
          ∧ e.setAckPending d = { e with ackPending := true, creditDue := true })
      ∨ (e.ackPending = false ∧ e.ackDelayTimer = 0 ∧ d ≠ 0
          ∧ e.setAckPending d = { e with ackPending := true, ackDelayTimer := d }) := by
  unfold PeerEntry.setAckPending PeerEntry.startAckDelay
  by_cases h1 : e.ackPending = true
  · exact .inl ⟨h1, by simp [h1]⟩
  · by_cases h2 : e.ackDelayTimer = 0 <;> by_cases h3 : d = 0 <;> simp_all

/-- Every way of setting grantPending (R59). -/
theorem PeerEntry.setGrantPending_cases (d : Nat) (e : PeerEntry) :
    (e.grantPending = true ∧ e.setGrantPending d = e)
      ∨ (e.grantPending = false ∧ e.ackDelayTimer ≠ 0 ∧ e.setGrantPending d = { e with grantPending := true })
      ∨ (e.grantPending = false ∧ e.ackDelayTimer = 0 ∧ d = 0
          ∧ e.setGrantPending d = { e with grantPending := true, creditDue := true })
      ∨ (e.grantPending = false ∧ e.ackDelayTimer = 0 ∧ d ≠ 0
          ∧ e.setGrantPending d = { e with grantPending := true, ackDelayTimer := d }) := by
  unfold PeerEntry.setGrantPending PeerEntry.startAckDelay
  by_cases h1 : e.grantPending = true
  · exact .inl ⟨h1, by simp [h1]⟩
  · by_cases h2 : e.ackDelayTimer = 0 <;> by_cases h3 : d = 0 <;> simp_all

/-! ### Ends and restarts of the state -/

/-- A session end changes TXS and the peer's entry only. -/
theorem State.sessionEnd_eq (s : State) (p : Station) (st : AssocState) (epoch : Epoch) :
    s.sessionEnd p st epoch
      = (s.onTxs (Txs.endSession p (s.peer p).oldestUnacked)).onPeer p fun e =>
          { PeerEntry.absentEntry with state := st, peerEpoch := epoch, sessionCount := e.sessionCount + 1 } := rfl

/-- What the withdrawal of one peer can do (R133, R150). -/
theorem State.withdrawPeer_cases (s : State) (p : Station) :
    ((s.peer p).isLive = true ∧ s.withdrawPeer p = s.sessionEnd p .absent 0)
      ∨ ((s.peer p).state = .lost
          ∧ s.withdrawPeer p = s.onPeer p fun e => { e with state := .absent, peerEpoch := 0 })
      ∨ ((s.peer p).isLive = false ∧ (s.peer p).state ≠ .lost ∧ s.withdrawPeer p = s) := by
  unfold State.withdrawPeer
  by_cases h1 : (s.peer p).isLive = true
  · exact .inl ⟨h1, by rw [if_pos h1]⟩
  · by_cases h2 : (s.peer p).state = .lost
    · exact .inr (.inl ⟨h2, by rw [if_neg h1, if_pos h2]⟩)
    · exact .inr (.inr ⟨by simpa using h1, h2, by rw [if_neg h1, if_neg h2]⟩)

end Sys2Proof.Machine
end

