-- ==== Sys2Proof/Laws/Store.lean ====
section
/-! SUPPORT. The store operations, said once: what one grant and a grant attempt can change. -/

namespace Sys2Proof.Machine

/-- The next grant goes to an eligible peer, while a record is uncommitted (R77, R78). -/
theorem State.nextGrant_some {s : State} {p : Station} (h : s.nextGrant = some p) :
    0 < s.uncommitted ∧ s.eligible p = true := by
  unfold State.nextGrant at h
  split at h
  · cases h
  · exact ⟨by omega, List.find?_some h⟩

/-- Without a next grant nothing is uncommitted or no peer in the rotation is eligible (R78). -/
theorem State.nextGrant_none {s : State} (h : s.nextGrant = none) :
    s.uncommitted = 0 ∨ ∀ p ∈ rotationFrom s.mst.rotation, s.eligible p = false := by
  unfold State.nextGrant at h
  split at h
  next hu => exact .inl hu
  next => exact .inr fun p hp => by simpa using List.find?_eq_none.1 h p hp

/-- A rotation reaches every address (R78, R103). -/
theorem mem_rotationFrom (ptr p : Station) : p ∈ rotationFrom ptr := by
  refine List.mem_map.2 ⟨p - ptr - 1, List.mem_finRange _, ?_⟩
  rw [sub_sub]
  exact add_sub_cancel _ _

/-- One grant changes the rotation pointer and the entry of its peer, there the grant fields only (R78). -/
theorem State.grantTo_eq (p : Station) (s : State) :
    s.grantTo p
      = { s with
          mst := { s.mst with rotation := p }
          pen := { s.pen with peers := s.pen.peers.set p ((s.peer p).granted s.cfg.ackDelay) } } := rfl

/-- The entry after one grant. -/
theorem PeerEntry.granted_eq (d : Nat) (e : PeerEntry) :
    e.granted d = { e with
      grantLimit := e.grantLimit + 1
      grantPending := true
      creditDue := (e.granted d).creditDue
      ackDelayTimer := (e.granted d).ackDelayTimer } := by
  unfold PeerEntry.granted PeerEntry.setGrantPending PeerEntry.startAckDelay
  cases h1 : e.grantPending <;> by_cases h2 : e.ackDelayTimer = 0 <;> by_cases h3 : d = 0 <;> simp_all

/-- What holds at the start and is kept by every grant holds after a run of grants. -/
theorem grantLoop_induction {P : State → Prop} (hstep : ∀ s p, P s → s.nextGrant = some p → P (s.grantTo p)) :
    ∀ (n : Nat) (s : State), P s → P (grantLoop n s)
  | 0, _, h => h
  | n + 1, s, h => by
    unfold grantLoop
    split
    · exact h
    · next p hp => exact grantLoop_induction hstep n _ (hstep s p h hp)

/-- A run of grants changes the rotation pointer and the peer table and nothing else (R78). -/
theorem grantLoop_frame (n : Nat) (s : State) :
    grantLoop n s
      = { s with
          mst := { s.mst with rotation := (grantLoop n s).mst.rotation }
          pen := { s.pen with peers := (grantLoop n s).pen.peers } } := by
  refine grantLoop_induction
    (P := fun t => t = { s with
      mst := { s.mst with rotation := t.mst.rotation }, pen := { s.pen with peers := t.pen.peers } })
    (fun t p h _ => ?_) n s rfl
  rw [State.grantTo_eq, h]

/-- A grant attempt changes the rotation pointer and the peer table and nothing else (R78). -/
theorem State.grantAttempt_frame (s : State) :
    s.grantAttempt
      = { s with
          mst := { s.mst with rotation := s.grantAttempt.mst.rotation }
          pen := { s.pen with peers := s.grantAttempt.pen.peers } } :=
  grantLoop_frame _ s

/-- Storing a record (R70, R75, R76). -/
theorem Mst.store_eq (r : DeliveryRecord) (m : Mst) :
    m.store r = ⟨m.delivery ++ [r], m.stored + 1, m.storedGroup + r.groupCount, m.rotation⟩ := rfl

end Sys2Proof.Machine
end

