-- ==== Sys2Proof/Tests/Slice0.lean ====
section
/-! SUPPORT. The model's own tests: a smoke test of each well-formedness check, the spec's worked values, one or two tests
of each command on a small state, and a witness for every statement that has hypotheses. -/

namespace Sys2Proof.Tests

set_option Elab.async false

open Sys2Proof.Machine

/-! ### Small states -/

/-- A frozen record: its filter table is that of the example under R116. -/
def record : ConfigRecord :=
  { bitRate := .kbit1000, epoch := 7, quota := 2, headroom := 1, ackDelay := 5, ackTimeout := 20, maxRetries := 2,
    helloInterval := 100, silenceMultiple := 3, holdoff := 10, deliveryInterrupt := true, completionInterrupt := true,
    noticeInterrupt := true,
    filters := #v[⟨0x40, 0xF0, true⟩, ⟨0x00, 0x00, false⟩, ⟨0x45, 0xFF, true⟩, ⟨0x80, 0x80, true⟩, ⟨0, 0, false⟩,
      ⟨0, 0, false⟩, ⟨0, 0, false⟩, ⟨0, 0, false⟩] }

/-- RUNNING at own address 1, the line idle, no peer known. -/
def running : State :=
  { State.initial 1 .waiting with
    control := ⟨1, .running, some record, 7, false, 0⟩
    liu := ⟨.idle, 11, none, 0, .empty, false⟩
    pen := ⟨initialPeers 1, 100, false⟩ }

/-- A LINKED entry with three frames of held credit and a reservation of two. -/
def linked : PeerEntry :=
  { PeerEntry.absentEntry with
    state := .linked, peerEpoch := 5, heldLimit := 3, grantLimit := 2, silenceTimer := 300, sessionCount := 1 }

/-- A SYNCING entry whose OPEN waits. -/
def syncing : PeerEntry :=
  { PeerEntry.absentEntry with
    state := .syncing, peerEpoch := 5, openPending := true, joinTimer := 20, silenceTimer := 300, grantLimit := 2 }

/-- `running` with an entry at address 2. -/
def withPeer (e : PeerEntry) : State := running.onPeer 2 fun _ => e

/-- A state with a slot filled, at the tail of the submission order list. -/
def withSlot (h : Handle) (x : Slot) (s : State) : State :=
  s.onTxs fun t => { t.setSlot h x with order := t.order ++ [h] }

/-- A state in another operating state. -/
def inState (o : OpState) (s : State) : State := s.onControl fun c => { c with opState := o }

/-- A state in another line state. -/
def onLine (l : LineState) (s : State) : State := s.onLiu fun x => { x with line := l, idleCount := 0 }

/-- A state whose port stands in a phase. -/
def portAt (phase : PortPhase) (s : State) : State := s.onHpt fun t => { t with port := .between phase false }

/-- A state whose transaction was judged with an answer. -/
def answering (c : HostCommand) (answer : List Byte) (s : State) : State :=
  s.onHpt fun t => { t with port := { Port.between .answer false with command := some c, answer := answer } }

/-- A DATA message to peer 2, and a GROUP message. -/
def message : Message := ⟨.data 2, 2, 0xABCD, [0xA1, 0xA2]⟩
def groupMessage : Message := ⟨.group 0x45, 1, 0x1234, [0xCC]⟩

/-- The state a command leaves. -/
def after (c : Instr) (s : State) : State :=
  match exec c s with
  | .next t => t
  | .refused _ => s

/-- Peer 2 is LINKED and slot 0 holds a message for it, so that its first send is presented. -/
def offering : State := (withSlot 0 (.queued message) (withPeer linked)).finish

/-- The first send of `offering` on the line. -/
def sending : State := after .contentionStarted offering

/-- The message of `offering` SENT with seq 0 and not acknowledged. -/
def outstanding : State := after (.sentOk false) sending

/-- GUARDED, with a HELLO due beside the withdrawn DATA. -/
def guarded : State :=
  { offering with hmn := ⟨100, .guarded, 0⟩, pen := { offering.pen with helloDue := true } }.finish

/-- A frame with an empty body staged as a record, in CONTENDING. -/
def staged (r : StagingRecord) (s : State) : State :=
  { s with
    liu := ⟨.contending, 11, some ⟨0x62, [0x1F, 7, 0]⟩, 0, .empty, true⟩
    txs := { s.txs with staged := some r } }

/-- `running` under reception. -/
def receiving : State := onLine .receiving running

/-- Frames as they come off the line, their CRC computed by hand from R16: from station 2 with epoch 5, to station 1 with
epoch 7. -/
def helloBytes : List Byte := [0x1F, 0x05, 0x00, 0xA0, 0xDD]
def leavingBytes : List Byte := [0x1F, 0x05, 0x01, 0xB0, 0xFC]
def openBytes : List Byte := [0x21, 0x05, 0x07, 0x00, 0x20, 0x3A, 0x02]
def acceptBytes : List Byte := [0x41, 0x05, 0x07, 0x00, 0x20, 0x23, 0xDE]
def creditBytes : List Byte := [0x61, 0x05, 0x07, 0x00, 0x90, 0x8C, 0xB1]
def dataBytes : List Byte := [0x81, 0x05, 0x07, 0x00, 0x00, 0xC2, 0xB1, 0xB2, 0x68, 0x4A]
def groupBytes : List Byte := [0xBF, 0x45, 0x01, 0xCC, 0xA5, 0xA8]
def overheardBytes : List Byte := [0x63, 0x05, 0x07, 0x00, 0x90, 0xC8, 0x32]
def clashBytes : List Byte := [0x1F, 0x05, 0x00, 0x3B, 0x01]

/-- A configuration record in range: 31 bytes (R170). -/
def recordBytes : List Byte :=
  [3, 7, 2, 1, 5, 0x00, 0x14, 2, 0x00, 0x64, 3, 0x00, 0x0A, 7] ++ [0x40, 0, 0x45, 0x80, 0, 0, 0, 0]
    ++ [0xF0, 0, 0xFF, 0x80, 0, 0, 0, 0] ++ [0x0D]

/-! ### Ill-formed commands are refused by the check -/

theorem test_illFormed_configure : (Instr.configure (recordBytes.drop 1)).wellFormed = false := by decide +kernel
theorem test_illFormed_submit : (Instr.submit [0, 2, 2, 0, 0, 1]).wellFormed = false := by decide +kernel
theorem test_illFormed_unknownCommand : (Instr.unknownCommand 0x35).wellFormed = false := by decide +kernel
theorem test_illFormed_readbackFault : (Instr.readbackFault 579 true).wellFormed = false := by decide +kernel
theorem test_illFormed_goodFrame : (Instr.goodFrame .recordFirst 0x62 [0x1F, 5, 0, 0xA0, 0xDC]).wellFormed = false := by
  decide +kernel
theorem test_wellFormed_goodFrame : (Instr.goodFrame .recordFirst 0x62 helloBytes).wellFormed = true := by decide +kernel

/-! ### The spec's worked values -/

/-- R16: the CRC over 0x31 to 0x39. -/
theorem test_crc_nineBytes : crc16 [0x31, 0x32, 0x33, 0x34, 0x35, 0x36, 0x37, 0x38, 0x39] = 0x29B1 := by decide +kernel

/-- R14's example: seq 5, ack 12, limit 20, length 10. -/
theorem test_packFour_example : packFour 5 12 20 10 = [0x14, 0xC5, 0x0A] := by decide +kernel

/-- R14's example: a CREDIT with ack 12 and limit 20. -/
theorem test_packTwo_example : packTwo 12 20 = [0x31, 0x40] := by decide +kernel

/-- R4's example: the byte 0x89 on the line. -/
theorem test_byteElements_example :
    byteElements 0x89 = [false, true, false, false, true, false, false, false, true, true] := by decide +kernel

/-- The contention example under R9: station C, with value 34, loses at bit 5 to B, with value 3. -/
theorem test_keptBits_example : keptBits 34 5 = [false, false] ∧ assembledContention (keptBits 34 5) 3 = 3 := by decide +kernel

/-- The filter example under R116. -/
theorem test_acceptingEntry_example :
    acceptingEntry record.filters 0x45 = some 0 ∧ acceptingEntry record.filters 0x8A = some 3
      ∧ acceptingEntry record.filters 0x12 = none := by decide +kernel

/-- The receive decisions at expected 62 under R57. -/
theorem test_seqDecision_example :
    let e : PeerEntry := { linked with expected := 62, grantLimit := 1 }
    e.seqDecision 62 = .accept ∧ e.seqDecision 0 = .outOfOrder
      ∧ { e with expected := 63 }.seqDecision 62 = .duplicate ∧ { e with expected := 1 }.seqDecision 33 = .duplicate
      ∧ { e with expected := 1 }.seqDecision 1 = .creditViolation := by decide +kernel

/-- The limit example near the wrap under R53: limits judged at ack 62 against a held limit of 2. -/
theorem test_takeLimit_example :
    let e : PeerEntry := { linked with oldestUnacked := 62, nextTxSeq := 63, heldLimit := 2 }
    (e.takeLimit 62 1).heldLimit = 2 ∧ (e.takeLimit 62 9).heldLimit = 9 ∧ (e.takeLimit 62 13).heldLimit = 13
      ∧ limitValid 62 13 = true ∧ limitValid 62 14 = false := by decide +kernel

/-- The score walk under R132: the fifth and the seventeenth of 17 faults from 61, and the 28th good frame from 91. -/
theorem test_levelStep_example :
    levelStep .sound 93 = .keep ∧ levelStep .sound 101 = .toGuarded ∧ levelStep .guarded 189 = .keep
      ∧ levelStep .guarded 197 = .toDetached ∧ levelStep .guarded 64 = .keep ∧ levelStep .guarded 63 = .toSound := by
  decide +kernel

/-- R43: the longest silence limit. -/
theorem test_silenceLimit_longest :
    silenceLimit { record with silenceMultiple := 15, helloInterval := 60000 } = 900000 ∧ tripleBytes 900000 = [0x0D, 0xBB, 0xA0] := by
  decide +kernel

/-- The run of choices under R104: own address 10, control pointer 4, ACCEPT due to 12, CREDIT due to 3 and 7. -/
def choices : State :=
  let slot (t : Target) (u : BitVec 2) : Message := ⟨t, u, 0, []⟩
  let credited : PeerEntry := { linked with creditDue := true }
  let s : State :=
    { (running.onPeer 3 fun _ => { credited with nextTxSeq := 6, oldestUnacked := 5, heldLimit := 9 }) with stamp := 0 }
  let s := (s.onPeer 7 fun _ => credited).onPeer 12 fun _ => { linked with acceptPending := true }
  let s := (s.onControl fun c => { c with ownAddr := 10 }).onPen fun n => { n with helloDue := true }
  let s := withSlot 1 (.queued (slot (.group 9) 2)) (withSlot 0 (.queued (slot (.data 3) 2))
    (withSlot 3 (.sent (slot (.data 3) 2) 5 true) s))
  (withSlot 2 (.queued (slot (.data 7) 1)) s).onTxs fun t => { t with controlPtr := 4 }

theorem test_choose_run :
    choices.choose = some (.control .acceptFrame 12)
      ∧ ((choices.onPeer 12 fun e => { e with acceptPending := false }).onTxs fun t => { t with controlPtr := 12 }).choose
        = some (.control .creditFrame 3) := by decide +kernel
theorem test_choose_messages :
    let quiet : State := ((choices.onPeer 12 fun _ => .absentEntry).onPeer 3 fun e => { e with creditDue := false }).onPeer 7
      fun e => { e with creditDue := false }
    quiet.choose = some (.firstSend 2 7) ∧ (quiet.onTxs fun t => t.setSlot 2 .free).choose = some (.resend 3 3) := by
  decide +kernel

/-! ### Commands -/

theorem test_pinReset : after .pinReset offering = { State.held with pending := [] } := by decide +kernel
theorem test_rstnRelease : ((after (.rstnRelease 30 true) (after .pinReset offering)).peer 30).state = .self := by decide +kernel
theorem test_rstnRelease_straps31 :
    ∀ p, ((after (.rstnRelease 31 false) (after .pinReset offering)).peer p).state = .absent := by decide +kernel
theorem test_timeStampTick_wraps : (after .timeStampTick { running with stamp := 0xFFFF }).stamp = 0 := by decide +kernel

/-- R46, R68: in GUARDED the join and ack timers stand still and the silence timer runs on. -/
theorem test_timeStampTick_held :
    let t := after .timeStampTick ((withPeer { linked with ackTimer := 9 }).onHmn fun m => { m with level := .guarded })
    (t.peer 2).ackTimer = 9 ∧ (t.peer 2).silenceTimer = 299 := by decide +kernel

/-- R159's example: delivery non-empty, SOUND, RUNNING. -/
theorem test_transactionStart_summary :
    (after .transactionStart (running.onMst (Mst.store ⟨7, .data 12, [0xA1, 0xA2, 0xA3], 0x1F40⟩))).hpt.port.summary = 0x12 := by
  decide +kernel
theorem test_transactionEnd_releases :
    let t := after .transactionEnd (answering .readMessage [0x00, 7]
      (running.onMst (Mst.store ⟨7, .group 0 9, [], 0⟩)))
    t.mst.stored = 0 ∧ t.mst.storedGroup = 0 ∧ t.hpt.port.phase = .waiting := by decide +kernel

/-- The counter example under R184, from the code byte to the end. -/
theorem test_transactionEnd_counters :
    let bank : Counters := { Counters.zero with framesReceived := 1200, checkErrors := 65535, framesSent := 310 }
    let read := after .readCounters (portAt .command { running with hpt := { running.hpt with counters := bank } })
    let counted := ((read.count .framesReceived).count .checkErrors).count .framesSent
    (after .transactionEnd counted).hpt.counters = { Counters.zero with framesReceived := 1, checkErrors := 0, framesSent := 1 } := by
  decide +kernel
theorem test_transactionCutShort : (after .transactionCutShort (portAt .answer running)).hpt.port.aborted = true := by decide +kernel
theorem test_configure : (after (.configure recordBytes) (portAt .command (State.initial 1 .waiting))).control
    = ⟨1, .ready, some record, 7, false, 0⟩ := by decide +kernel
theorem test_configure_badAddress :
    (after (.configure recordBytes) (portAt .command (State.initial 31 .waiting))).hpt.port.answer = [0x0B, 0] := by decide +kernel
theorem test_start :
    let t := after .start (portAt .command (inState .ready running))
    t.liu.line = .recovering ∧ t.pen.helloDue = true ∧ t.control.epoch = 7 := by decide +kernel
theorem test_leave :
    let t := after .leave (portAt .command offering)
    t.txs.completions = [0] ∧ (t.peer 2).state = .absent ∧ t.control.leaveLimit = 100 := by decide +kernel
theorem test_reset_epochWraps :
    (after .reset (portAt .command (running.onControl fun c => { c with epoch := 255 }))).control.epoch = 1 := by decide +kernel

/-- The SUBMIT example after R165: slots 0 to 3 taken. -/
theorem test_submit :
    let full := withSlot 0 (.queued message) (withSlot 1 (.queued message) (withSlot 2 (.queued message)
      (withSlot 3 (.queued message) (running.onPeer 9 fun _ => linked))))
    let t := after (.submit [0x00, 0x09, 0x02, 0x12, 0x34, 0x02, 0x55, 0x66]) (portAt .command full)
    t.txs.slot 4 = .queued ⟨.data 9, 2, 0x1234, [0x55, 0x66]⟩ ∧ t.hpt.port.answer = [0x00, 4] := by decide +kernel
theorem test_submit_checkOrder :
    (after (.submit [0x00, 0x01, 0x00, 0, 0, 49]) (portAt .command running)).hpt.port.answer = [0x05] := by decide +kernel
theorem test_cancel : (after (.cancel 0) (portAt .command offering)).txs.completions = [0] := by decide +kernel
theorem test_cancel_staged : (after (.cancel 0) (portAt .command sending)).hpt.port.answer = [0x08] := by decide +kernel

/-- The example of one message read, after R165. -/
theorem test_readMessage :
    (after .readMessage (portAt .command
      (running.onMst (Mst.store ⟨7, .data 12, [0xA1, 0xA2, 0xA3], 0x1F40⟩)))).hpt.port.answer
      = [0x00, 0x07, 0x00, 0x0C, 0x00, 0x03, 0x1F, 0x40, 0xA1, 0xA2, 0xA3] := by decide +kernel
theorem test_readCompletion :
    (after .readCompletion (portAt .command (after (.cancel 0) (portAt .command offering)))).hpt.port.answer
      = [0x00, 0, 0xAB, 0xCD, 2] := by decide +kernel
theorem test_readNotice :
    (after .readNotice (portAt .command ({ running with stamp := 0x0102 }.raise (.peerLost 9 .join)))).hpt.port.answer
      = [0x00, 2, 9, 2, 1, 2] := by decide +kernel
theorem test_readPeer :
    (after (.readPeer 2) (portAt .command (withPeer { linked with ackPending := true, creditDue := true }))).hpt.port.answer
      = [0x00, 2, 5, 0, 0, 3, 0, 2, 0x14, 0, 1, 0, 0, 0, 0x01, 0x2C, 0, 0, 0] := by decide +kernel
theorem test_readPeer_noSuch : (after (.readPeer 31) (portAt .command running)).hpt.port.answer = [0x07] := by decide +kernel
theorem test_readStatus :
    (after .readStatus (portAt .command offering)).hpt.port.answer = [0x00, 2, 0, 0, 7, 1, 0, 0, 0, 23, 45, 0, 0, 0, 0] := by
  decide +kernel
theorem test_readCounters :
    (after .readCounters (portAt .command (running.count .framesSent))).hpt.port.answer.take 5 = [0x00, 0, 1, 0, 0] := by
  decide +kernel
theorem test_unknownCommand : (after (.unknownCommand 0xFF) (portAt .command running)).hpt.port.answer = [0x0C] := by decide +kernel
theorem test_lineIdle : (after .lineIdle (onLine .recovering running)).liu.idleCount = 11 := by decide +kernel
theorem test_contentionStarted :
    sending.txs.staged = some (.firstSend (some 0) 2 0 ⟨1, 0, 2⟩)
      ∧ sending.liu.staging = some ⟨0x41, [0x82, 0x07, 0x05, 0x00, 0x00, 0x82, 0xA1, 0xA2]⟩ := by decide +kernel
theorem test_sentOk :
    outstanding.txs.slot 0 = .sent message 0 false ∧ (outstanding.peer 2).nextTxSeq = 1 ∧ (outstanding.peer 2).ackTimer = 20 := by
  decide +kernel
theorem test_sentOk_staleHello :
    (after (.sentOk false) (staged (.hello 6) (running.onPen fun n => { n with helloDue := true }))).pen.helloDue = true := by
  decide +kernel
theorem test_lostContention :
    (after (.lostContention 1) (staged (.hello 7) running)).liu.assembly.bits = [true, true, false, false, false, false] := by
  decide +kernel
theorem test_lostContention_dominant : after (.lostContention 2) (staged (.hello 7) running) = staged (.hello 7) running := by
  decide +kernel

/-- The two orders of a readback fault that enters DETACHED (R134): with the score first, the staged first send is still
named and completes INDOUBT; with the abort first, it completes PEER_GONE. -/
theorem test_readbackFault_orders :
    let s := sending.onHmn fun _ => ⟨190, .guarded, 0⟩
    (after (.readbackFault 8 true) s).txs.slot 0 = .complete message none .inDoubt
      ∧ (after (.readbackFault 8 false) s).txs.slot 0 = .complete message none .peerGone := by decide +kernel
theorem test_checkError : (after .checkError receiving).hmn.score = 1 := by decide +kernel
theorem test_goodFrame_hello :
    let t := after (.goodFrame .recordFirst 0x62 helloBytes) receiving
    (t.peer 2).state = .syncing ∧ (t.peer 2).peerEpoch = 5 ∧ (t.peer 2).grantLimit = 2 ∧ (t.peer 2).silenceTimer = 300 := by
  decide +kernel
theorem test_goodFrame_data :
    let t := after (.goodFrame .recordFirst 0x42 dataBytes) (onLine .receiving (withPeer linked))
    t.mst.delivery = [⟨2, .data 0, [0xB1, 0xB2], 0⟩] ∧ (t.peer 2).expected = 1 ∧ (t.peer 2).ackDelayTimer = 5
      ∧ t.hpt.irqnLow = true := by decide +kernel
theorem test_joinTimerExpiry_lost :
    let t := after (.joinTimerExpiry 2) (withPeer { syncing with joinTimer := 1, retryCount := 2 })
    (t.peer 2).state = .lost ∧ (t.peer 2).peerEpoch = 5 ∧ t.hpt.notices = [⟨.peerLost 2 .join, 0⟩] := by decide +kernel
theorem test_joinTimerExpiry_retry :
    ((after (.joinTimerExpiry 2) (withPeer { syncing with joinTimer := 1, retryCount := 1 })).peer 2).retryCount = 2 := by
  decide +kernel
theorem test_silenceTimerExpiry :
    let t := after (.silenceTimerExpiry 2) (offering.onPeer 2 fun e => { e with silenceTimer := 1 })
    t.txs.slot 0 = .complete message none .peerGone ∧ t.hpt.notices = [⟨.peerLost 2 .silence, 0⟩] := by decide +kernel
theorem test_ackTimerExpiry :
    let t := after (.ackTimerExpiry 2) (outstanding.onPeer 2 fun e => { e with ackTimer := 1 })
    t.txs.slot 0 = .sent message 0 true ∧ t.txs.presented = some (.resend 0 2) := by decide +kernel
theorem test_ackDelayExpiry :
    ((after (.ackDelayExpiry 2) (withPeer { linked with ackPending := true, ackDelayTimer := 1 })).peer 2).creditDue = true := by
  decide +kernel
theorem test_helloTimerExpiry : (after .helloTimerExpiry (running.onPen fun n => { n with helloTimer := 1 })).pen.helloTimer = 100 := by
  decide +kernel
theorem test_holdoffExpiry :
    let t := after .holdoffExpiry ((inState .detached running).onHmn fun _ => ⟨197, .guarded, 1⟩)
    t.control.epoch = 8 ∧ t.hmn.score = 0 ∧ t.hmn.level = .sound ∧ t.pen.helloDue = true := by decide +kernel
theorem test_leaveLimitExpiry :
    let t := after .leaveLimitExpiry
      ((inState .leaving running).onControl fun c => { c with leaveLimit := 1, leavingHelloDue := true })
    t.control.opState = .ready ∧ t.control.epoch = 8 ∧ t.hpt.notices = [⟨.leaveDone true, 0⟩] := by decide +kernel
theorem test_receptionStart : (after .receptionStart running).liu.line = .receiving := by decide +kernel
theorem test_chipSelectRiseAfterReset :
    (after .chipSelectRiseAfterReset (State.initial 1 .awaitingRise)).hpt.port = .between .waiting false := by decide +kernel

/-! ### Bit times and bytes -/

/-- The state a bit time leaves, HMN before TXS. -/
def sampled (recessive : Bool) (s : State) : State :=
  match takeInput (.bitTime recessive .recordFirst) s with
  | .next t => t
  | .refused _ => s

/-- The state a byte on MOSI leaves. -/
def clocked (byte : Byte) (s : State) : State :=
  match takeInput (.mosiByte byte) s with
  | .next t => t
  | .refused _ => s

/-- `sending`, whose contention value is 0x41, with some of its elements read back. -/
def matching (n : Nat) (line : LineState) : State := sending.onLiu fun l => { l with matched := n, line := line }

/-- R3: a dominant sample in RECOVERING clears the count; the eleventh recessive one ends it. -/
theorem test_bitTime_recovering :
    let s := (onLine .recovering running).onLiu fun l => { l with idleCount := 10 }
    (sampled false s).liu.idleCount = 0 ∧ (sampled false s).liu.line = .recovering ∧ (sampled true s).liu.line = .idle := by
  decide +kernel

/-- R1, R6: the presented frame is staged, its start element read back, and LTX is high for its first contention bit. -/
theorem test_bitTime_stages :
    let t := sampled false offering
    t.liu.line = .contending ∧ t.liu.matched = 1 ∧ t.liu.ltxLow = false ∧ t.liu.idleCount = 0
      ∧ (sampled true offering).liu.line = .recovering := by decide +kernel

/-- R7: after the seventh contention bit the LIU is SENDING and drives the start element of the first byte. -/
theorem test_bitTime_seventhBit :
    let t := sampled true (matching 7 .contending)
    t.liu.line = .sending ∧ t.liu.ltxLow = true ∧ t.liu.matched = 8 := by decide +kernel
theorem test_bitTime_lost :
    (sampled false (matching 1 .contending)).liu.assembly.bits = [false]
      ∧ (sampled false (matching 1 .contending)).hpt.counters.contentionLosses = 1 := by decide +kernel
theorem test_bitTime_faults :
    (sampled true (matching 2 .contending)).hmn.score = 8 ∧ (sampled true (matching 8 .sending)).hmn.score = 8
      ∧ (sampled false (matching 118 .sending)).hmn.score = 8 ∧ (sampled true (matching 118 .sending)).txs.slot 0 = .sent message 0 false := by
  decide +kernel

/-- R17: the elements of a HELLO from station 2, taken one by one, leave its bytes, and the next recessive one completes it. -/
theorem test_reception_hello :
    let last := ((frameElements 0x62 [0x1F, 5, 0]).drop 1).dropLast.foldl
      (fun r e => match r with | .continues a => a.take e | r => r) (Reception.continues .empty)
    last = .continues ⟨contentionBits 0x62, helloBytes, List.replicate 10 true⟩
      ∧ (Assembly.take true ⟨contentionBits 0x62, helloBytes, List.replicate 10 true⟩) = .complete := by decide +kernel

/-- R18: a kind code 6, a HELLO to station 3 and a GROUP length of 49 fail as their byte is stored. -/
theorem test_storedBytesPass :
    storedBytesPass 0x62 [0xC2] = false ∧ storedBytesPass 0x62 [0x03] = false ∧ storedBytesPass 0x62 [0xBF, 9, 49] = false
      ∧ storedBytesPass 0x62 [0xBF, 9, 48] = true ∧ storedBytesPass 0x62 helloBytes = true := by decide +kernel

/-- A frame half sampled, ended by its row: what was sampled stands (R17). -/
theorem test_goodFrame_resumes :
    let half := receiving.onLiu fun l => { l with assembly := ⟨contentionBits 0x62, [0x1F], [false, true, false]⟩ }
    (after (.goodFrame .recordFirst 0x62 helloBytes) half).liu.assembly.bytes = helloBytes := by decide +kernel

/-- R158: CANCEL's code byte enters PARAMETERS, its handle has it judged, its status byte is the whole answer. -/
theorem test_clockByte_cancel :
    let t := clocked 0 (clocked 0x21 (portAt .command offering))
    t.txs.completions = [0] ∧ t.miso = some false ∧ t.hpt.port.phase = .answer ∧ (clocked 0 t).hpt.port.phase = .overrun := by
  decide +kernel
theorem test_clockByte_start : (clocked 0x11 (portAt .command (inState .ready running))).control.opState = .running := by decide +kernel

/-- The state that the edges of a byte leave but for the last falling one, and the levels MISO showed at the rising ones. -/
def edges (bits : List Bool) (s : State) : State × List (Option Bool) :=
  let after' (i : Input) (s : State) : State := match takeInput i s with
    | .next t => t
    | .refused _ => s
  bits.foldl (fun (s, seen) b => (after' (.sclkRise b) (after' .sclkFall s), seen ++ [(after' .sclkFall s).miso])) (s, [])

/-- R157: both directions go most significant bit first. The eighth rising edge completes START's code 0x11, the summary byte
0x01 of READY has gone out, and its last bit stands until SCLK falls. -/
theorem test_sclk_byte :
    let r := edges [false, false, false, true, false, false, false, true]
      (after .transactionStart (portAt .waiting (inState .ready running)))
    r.1.control.opState = .running ∧ r.1.hpt.port.phase = .answer ∧ r.1.miso = some true
      ∧ r.2 = [false, false, false, false, false, false, false, true].map some := by decide +kernel

/-- R157: the bits of a byte that is not complete when CSn rises are discarded. -/
theorem test_sclk_partial :
    let r := edges [false, false, false, true, false, false, false] (portAt .command (inState .ready running))
    r.1.control.opState = .ready ∧ (after .transactionCutShort r.1).hpt.port = .between .waiting true := by decide +kernel
theorem test_miso_highImpedance : running.miso = none ∧ State.held.miso = none := by decide +kernel

/-- R131, R20: with the line idle taken first, a clash that raises the level finds the first send staged in SOUND. -/
theorem test_goodFrame_clashOrders :
    let s := onLine .receiving (offering.onHmn fun _ => ⟨90, .sound, 0⟩)
    (after (.goodFrame .idleBeforeScore 0x61 clashBytes) s).txs.staged = some (.firstSend (some 0) 2 0 ⟨1, 0, 2⟩)
      ∧ (after (.goodFrame .idleBeforeScore 0x61 clashBytes) s).hmn.level = .guarded
      ∧ (after (.goodFrame .recordFirst 0x61 clashBytes) s).txs.staged = none := by decide +kernel

/-! ### Steps -/

theorem test_step_idle : step running = .next running := by rfl
theorem test_step_input : step { running with inputs := [.mosiByte 1, .mosiByte 2] } = takeInput (.mosiByte 1) { running with inputs := [.mosiByte 2] } := by
  rfl
theorem test_step_front : step { running with pending := [.lineIdle, .start] } = exec .lineIdle { running with pending := [.start] } := by
  rfl

/-! ### Witnesses

For every statement with hypotheses, states and operands that meet them, clause by clause. -/

/-- A state whose port takes a command code. -/
def commanding (s : State) : State := portAt .command s

theorem commanding_takes {s : State} (h : s.inReset = false) : (commanding s).TakesCommand := ⟨h, rfl, rfl, rfl⟩

theorem witness_PinResetDiscardsEverything :
    State.held.inReset = true ∧ Instr.lineIdle ≠ .pinReset ∧ ∀ a low, Instr.lineIdle ≠ .rstnRelease a low :=
  ⟨rfl, by decide, fun _ _ => nofun⟩

theorem witness_ReleaseEntersUnconfigured :
    State.held.inReset = true ∧ running.inReset = false
      ∧ (State.initial 1 .awaitingRise).inReset = false ∧ (State.initial 1 .awaitingRise).hpt.port.phase = .awaitingRise :=
  ⟨rfl, rfl, rfl, rfl⟩

theorem witness_StepRunsFrontCommand : running.pending = [] ∧ running.inputs = [] := ⟨rfl, rfl⟩

/-- A port with some bits of a byte sampled, and a level kept on MISO. -/
def midByte (bits : List Bool) (held : Option Bool) (s : State) : State :=
  ((portAt .command s).withBits bits).withHeld held

theorem witness_BytesDriveTheTransaction :
    running.inReset = false ∧ (∀ phase ∈ [PortPhase.command, .parameters, .answer, .overrun],
        (portAt phase running).hpt.port.bits = [] ∧ (portAt phase running).hpt.port.held = none)
      ∧ (∀ bits ∈ [[], List.replicate 6 true, List.replicate 7 true], ∀ held ∈ [none, some true],
          (midByte bits held running).hpt.port.bits = bits ∧ (midByte bits held running).hpt.port.held = held
            ∧ (midByte bits held running).inReset = false ∧ (midByte bits held running).hpt.port.phase = .command)
      ∧ (∀ i < 8, (List.replicate 7 true ++ [false])[i]? = some ((0xFE : Byte).getLsbD (7 - i)))
      ∧ (∀ phase ∈ [PortPhase.command, .parameters, .answer, .overrun, .waiting, .awaitingRise],
        (portAt phase running).hpt.port.phase = phase)
      ∧ (∀ c ∈ [HostCommand.configure, .submit, .cancel, .readPeer],
          ((portAt .parameters running).onHpt fun t => { t with port := { t.port with command := some c } }).hpt.port.command = some c)
      ∧ ([] ++ [(5 : Byte)]).length = 1 ∧ (recordBytes.dropLast ++ [(0x0D : Byte)]).length = 31
      ∧ ([(0 : Byte), 2, 2, 0, 0] ++ [0]).length = 6 + (byteAt ([(0 : Byte), 2, 2, 0, 0] ++ [0]) 5).toNat
      ∧ (answering .readPeer [7] running).hpt.port.count + 1 = (answering .readPeer [7] running).hpt.port.answer.length
      ∧ (answering .submit [0, 4] running).hpt.port.count + 1 < (answering .submit [0, 4] running).hpt.port.answer.length := by
  decide +kernel

theorem witness_TickAdvancesStampAndTimers : guarded.inReset = false := by decide +kernel

theorem witness_TransactionsRunUntilJudged :
    running.inReset = false ∧ running.hpt.port.phase = .waiting ∧ (commanding running).TakesCommand
      ∧ (recordBytes.take 30).length < 31 ∧ [0, 2, 2, 0, 0].length < (6 : Nat)
      ∧ [(0 : Byte), 2, 2, 0, 0, 48].length < 6 + submitPayloadBytes (byteAt [0, 2, 2, 0, 0, 48] 5)
      ∧ ∀ phase ∈ [PortPhase.command, .parameters, .answer],
          (portAt phase running).inReset = false ∧ (portAt phase running).hpt.port.phase = phase :=
  ⟨rfl, rfl, commanding_takes rfl, by decide +kernel, by decide, by decide +kernel, by decide +kernel⟩

theorem witness_CompleteEndTakesItsEffect :
    (∃ (s : State) (results : List Byte) (r : DeliveryRecord) (rest : List DeliveryRecord), s.Answering .readMessage (Status.ok.byte :: results) ∧ s.mst.delivery = r :: rest)
      ∧ (∃ (s : State) (results : List Byte) (h : Handle) (rest : List Handle), s.Answering .readCompletion (Status.ok.byte :: results) ∧ s.txs.completions = h :: rest)
      ∧ (∃ (s : State) (results : List Byte) (n : Notice) (rest : List Notice), s.Answering .readNotice (Status.ok.byte :: results) ∧ s.hpt.notices = n :: rest)
      ∧ (∃ (s : State) (results : List Byte) (snap : Counters), s.Answering .readCounters (Status.ok.byte :: results) ∧ s.hpt.port.snapshot = some snap)
      ∧ (∃ (s : State) (results : List Byte), s.Answering .readStatus (Status.ok.byte :: results))
      ∧ (∃ (s : State) (results : List Byte), s.Answering .readMessage (Status.empty.byte :: results) ∧ Status.empty.byte ≠ Status.ok.byte)
      ∧ ∃ (s : State) (results : List Byte), s.Answering .submit (Status.ok.byte :: results) :=
  ⟨⟨answering .readMessage [0] (running.onMst (Mst.store ⟨7, .data 12, [], 0⟩)), [], _, _, ⟨rfl, rfl, rfl, rfl⟩, rfl⟩,
    ⟨answering .readCompletion [0] (running.onTxs fun t => { t with completions := [3] }), [], _, _, ⟨rfl, rfl, rfl, rfl⟩, rfl⟩,
    ⟨answering .readNotice [0] (running.raise .addressClash), [], _, _, ⟨rfl, rfl, rfl, rfl⟩, rfl⟩,
    ⟨after .readCounters (commanding running), _, _,
      ⟨by decide +kernel, by decide +kernel, by decide +kernel, rfl⟩, rfl⟩,
    ⟨answering .readStatus [0] running, [], rfl, rfl, rfl, rfl⟩,
    ⟨answering .readMessage [1] running, [], ⟨rfl, rfl, rfl, rfl⟩, by decide⟩,
    ⟨answering .submit [0, 4] running, [4], rfl, rfl, rfl, rfl⟩⟩

theorem witness_UnknownCodeIsAnsweredAndChangesNothing :
    (commanding running).TakesCommand
      ∧ (0x14 : Byte) ∉ [0x10, 0x11, 0x12, 0x13, 0x20, 0x21, 0x30, 0x31, 0x32, 0x33, 0x34, 0x35] :=
  ⟨commanding_takes rfl, by decide⟩

theorem witness_ReadingCommandsAnswerTheHead :
    (commanding running).TakesCommand ∧ (commanding running).mst.delivery = [] ∧ (commanding running).txs.completions = []
      ∧ (commanding running).hpt.notices = []
      ∧ (running.onMst (Mst.store ⟨7, .data 12, [], 0⟩)).mst.delivery = [⟨7, .data 12, [], 0⟩]
      ∧ (running.onMst (Mst.store ⟨7, .group 3 12, [], 0⟩)).mst.delivery = [⟨7, .group 3 12, [], 0⟩]
      ∧ (after (.cancel 0) (commanding offering)).txs.completions = [0]
      ∧ (after (.cancel 0) (commanding offering)).txs.slot 0 = .complete message none .cancelled
      ∧ (running.raise .addressClash).hpt.notices = [⟨.addressClash, 0⟩] :=
  ⟨commanding_takes rfl, rfl, rfl, rfl, rfl, rfl, by decide +kernel, by decide +kernel, rfl⟩

theorem witness_SnapshotCommandsAnswerTheState : (commanding offering).TakesCommand ∧ 30 < (31 : Byte).toNat :=
  ⟨commanding_takes (by decide +kernel), by decide⟩

theorem witness_ConfigureInRangeIsAccepted :
    ∃ (s : State) (b : List Byte) (rate : BitRate), s.TakesCommand ∧ s.control.opState = .unconfigured ∧ b.length = 31
      ∧ s.control.ownAddr.toNat ≤ 30
      ∧ ((byteAt b 0, rate) ∈
          [(0, BitRate.kbit125), (1, .kbit250), (2, .kbit500), (3, .kbit1000), (4, .kbit2000)])
      ∧ byteAt b 1 ≠ 0 ∧ 1 ≤ (byteAt b 2).toNat ∧ (byteAt b 2).toNat ≤ 15 ∧ (byteAt b 3).toNat ≤ 16
      ∧ (byteAt b 4).toNat ≤ 31 ∧ 8 ≤ (wordAt b 5).toNat ∧ (wordAt b 5).toNat ≤ 4095
      ∧ 2 * (byteAt b 4).toNat + 8 ≤ (wordAt b 5).toNat ∧ 1 ≤ (byteAt b 7).toNat ∧ (byteAt b 7).toNat ≤ 15
      ∧ 100 ≤ (wordAt b 8).toNat ∧ (wordAt b 8).toNat ≤ 60000 ∧ 3 ≤ (byteAt b 10).toNat ∧ (byteAt b 10).toNat ≤ 15
      ∧ 10 ≤ (wordAt b 11).toNat ∧ (wordAt b 11).toNat ≤ 60000 :=
  ⟨commanding (State.initial 30 .waiting), recordBytes, .kbit1000, commanding_takes rfl, by decide +kernel⟩

/-- The ranges of R145 in index order, as the statement spells them. -/
def recordRanges (own : Address) (b : List Byte) : List Bool :=
  [decide (own.toNat ≤ 30), decide ((byteAt b 0).toNat ≤ 4), decide (1 ≤ (byteAt b 1).toNat),
   decide (1 ≤ (byteAt b 2).toNat ∧ (byteAt b 2).toNat ≤ 15), decide ((byteAt b 3).toNat ≤ 16),
   decide ((byteAt b 4).toNat ≤ 31),
   decide (8 ≤ (wordAt b 5).toNat ∧ (wordAt b 5).toNat ≤ 4095 ∧ 2 * (byteAt b 4).toNat + 8 ≤ (wordAt b 5).toNat),
   decide (1 ≤ (byteAt b 7).toNat ∧ (byteAt b 7).toNat ≤ 15),
   decide (100 ≤ (wordAt b 8).toNat ∧ (wordAt b 8).toNat ≤ 60000),
   decide (3 ≤ (byteAt b 10).toNat ∧ (byteAt b 10).toNat ≤ 15),
   decide (10 ≤ (wordAt b 11).toNat ∧ (wordAt b 11).toNat ≤ 60000)]

theorem witness_StateCommandsAreRefused :
    (∀ i : Fin 11, ∃ b : List Byte, b.length = 31
      ∧ ∃ own : Address, (∀ j < i.val, (recordRanges own b)[j]? = some true) ∧ (recordRanges own b)[i.val]? = some false)
      ∧ (commanding (State.initial 1 .waiting)).TakesCommand
      ∧ (commanding (State.initial 1 .waiting)).control.opState = .unconfigured
      ∧ (commanding running).TakesCommand ∧ (commanding running).control.opState ≠ .unconfigured
      ∧ (commanding running).control.opState ≠ .ready
      ∧ (inState .leaving running).control.opState ≠ .running ∧ (inState .leaving running).control.opState ≠ .detached := by
  refine ⟨fun i => ?_, commanding_takes rfl, rfl, commanding_takes rfl, by decide, by decide, by decide, by decide⟩
  refine ⟨if i = 0 then recordBytes else recordBytes.set (([0, 0, 1, 2, 3, 4, 5, 7, 8, 10, 11] : List Nat).getD i.val 0)
    (if i = 2 ∨ i = 3 ∨ i = 7 then 0 else 255), ?_, if i = 0 then 31 else 30, ?_, ?_⟩
  all_goals revert i; decide +kernel

theorem witness_StartEntersRunning :
    (commanding (inState .ready running)).TakesCommand ∧ (commanding (inState .ready running)).control.opState = .ready :=
  ⟨commanding_takes rfl, rfl⟩

theorem witness_LeaveCancelsThenEndsSessions :
    (commanding offering).TakesCommand ∧ (commanding offering).control.opState = .running
      ∧ (inState .detached offering).control.opState = .detached :=
  ⟨commanding_takes (by decide +kernel), by decide +kernel, rfl⟩

theorem witness_SoftResetKeepsConfigurationAndCounters : (commanding offering).TakesCommand :=
  commanding_takes (by decide +kernel)

theorem witness_SubmitTakesLowestFreeSlot :
    (commanding offering).TakesCommand ∧ (commanding offering).control.opState = .running
      ∧ (∀ b ∈ [[(0 : Byte), 2, 3, 0xAB, 0xCD, 0], [1, 31, 1, 0xAB, 0xCD, 1, 0xEE]],
          b.length = 6 + (byteAt b 5).toNat ∧ (byteAt b 5).toNat ≤ 48 ∧ 1 ≤ (byteAt b 2).toNat ∧ (byteAt b 2).toNat ≤ 3)
      ∧ (2 : Byte).toNat = (2 : Station).val ∧ stationAddress 2 ≠ offering.control.ownAddr
      ∧ (offering.peer 2).state ≠ .absent ∧ (offering.peer 2).state ≠ .lost
      ∧ (commanding offering).txs.slot 1 = .free ∧ ∀ h' < (1 : Handle), (commanding offering).txs.slot h' ≠ .free :=
  ⟨commanding_takes (by decide +kernel), by decide +kernel, by decide +kernel, by decide +kernel, by decide +kernel,
    by decide +kernel, by decide +kernel, by decide +kernel, by decide +kernel⟩

/-- Every slot QUEUED. -/
def crowded : State := offering.onTxs fun t => { t with slots := Vector.replicate 24 (.queued message) }

theorem witness_SubmitIsRefusedByFirstFailingCheck :
    (commanding (inState .ready running)).TakesCommand ∧ (inState .ready running).control.opState ≠ .running
      ∧ (inState .ready running).control.opState ≠ .detached ∧ (commanding crowded).TakesCommand
      ∧ (∀ b ∈ [[(0 : Byte), 2, 2, 0, 0, 49], [0, 2, 0, 0, 0, 0], [0, 2, 4, 0, 0, 0], [0, 1, 1, 0, 0, 0], [0, 31, 1, 0, 0, 0],
          [0, 9, 1, 0, 0, 0], [0, 2, 1, 0, 0, 0]], b.length = 6 + submitPayloadBytes (byteAt b 5))
      ∧ 48 < (49 : Byte).toNat ∧ 3 < (4 : Byte).toNat ∧ (1 : Byte).toNat = crowded.control.ownAddr.toNat
      ∧ 31 ≤ (31 : Byte).toNat ∧ (crowded.peer 9).state = .absent ∧ (crowded.peer 2).state = .linked
      ∧ ∀ h, crowded.txs.slot h ≠ .free :=
  ⟨commanding_takes rfl, by decide, by decide, commanding_takes (by decide +kernel), by decide +kernel, by decide, by decide,
    by decide +kernel, by decide, by decide +kernel, by decide +kernel, by decide +kernel⟩

theorem witness_CancelCompletesOnlyUnstagedQueued :
    (commanding offering).TakesCommand ∧ (commanding offering).txs.slot 0 = .queued message
      ∧ (commanding offering).txs.stagedHandle ≠ some 0 ∧ (commanding sending).TakesCommand
      ∧ (commanding sending).txs.slot 0 = .queued message ∧ (commanding sending).txs.stagedHandle = some 0
      ∧ (commanding outstanding).TakesCommand ∧ (commanding outstanding).txs.slot 0 = .sent message 0 false
      ∧ ((commanding offering).txs.slot 23).isOpen = false ∧ 23 < (24 : Byte).toNat :=
  ⟨commanding_takes (by decide +kernel), by decide +kernel, by decide +kernel, commanding_takes (by decide +kernel),
    by decide +kernel, by decide +kernel, commanding_takes (by decide +kernel), by decide +kernel, by decide +kernel, by decide⟩

theorem witness_RecoveryEndsAndReceptionBegins :
    (onLine .recovering running).OnLine .recovering ∧ running.OnLine .idle ∧ running.txs.presented = none
      ∧ (onLine .recovering running).liu.idleCount < 10 ∧ 10 ≤ running.liu.idleCount
      ∧ (inState .ready running).enabled = false :=
  ⟨⟨rfl, rfl, rfl⟩, ⟨rfl, rfl, rfl⟩, rfl, by decide, by decide, rfl⟩

theorem witness_ReceptionFollowsTheElements :
    receiving.OnLine .receiving ∧ receiving.liu.assembly.bits.length < 7 ∧ 7 ≤ (contentionBits 0x62).length
      ∧ knownLength [0x1F] ≠ some 1 ∧ storedBytesPass (contentionOfBits (contentionBits 0x62)) ([] ++ [0x1F]) = true
      ∧ 9 ≤ (false :: dataBits 0x1F).length ∧ byteOfBits ((false :: dataBits 0x1F).drop 1) = 0x1F
      ∧ knownLength helloBytes = some helloBytes.length ∧ 10 ≤ (List.replicate 10 true).length
      ∧ ∀ k ∈ [(0x1F : Byte), 0x21, 0x81, 0xBF], (k.extractLsb' 5 3).toNat ∈ [0, 1, 4, 5] :=
  ⟨⟨rfl, rfl, rfl⟩, by decide +kernel⟩

theorem witness_CheckErrorIsCountedAndReported :
    receiving.OnLine .receiving ∧ receiveFrame (assembledContention receiving.liu.assembly.bits 0x62)
        (assembledBytes receiving.liu.assembly [0x1F, 5, 0]) = none :=
  ⟨⟨rfl, rfl, rfl⟩, by decide +kernel⟩

theorem witness_ContentionStartedStagesPresentedCandidate :
    let presents (c : Candidate) (s : State) : State := s.onTxs fun t => { t with presented := some c }
    (presents (.resend 0 2) outstanding).OnLine .idle ∧ (presents (.resend 0 2) outstanding).txs.staged = none
      ∧ (∀ c ∈ [Candidate.hello, .leavingHello, .control .openFrame 2], (presents c offering).txs.presented = some c)
      ∧ offering.OnLine .idle ∧ offering.txs.staged = none
      ∧ offering.txs.presented = some (.firstSend 0 2) ∧ offering.txs.slot 0 = .queued message
      ∧ (presents (.resend 0 2) outstanding).txs.slot 0 = .sent message 0 false
      ∧ (withSlot 1 (.queued groupMessage) offering).txs.slot 1 = .queued groupMessage
      ∧ groupMessage.target = .group 0x45 := by
  refine ⟨⟨?_, ?_, ?_⟩, ?_, ?_, ⟨?_, ?_, ?_⟩, ?_, ?_, ?_, ?_, ?_, ?_⟩ <;> decide +kernel

/-- A peer none of whose slots is SENT meets the window law with nothing outstanding. -/
theorem window_of_unsent {s : State} (hs : ∀ h, (s.txs.slot h).isOpen = true → (s.txs.slot h).isQueued = true)
    (hp : ∀ p, (s.peer p).outstanding = 0 ∧ ((s.peer p).heldLimit - (s.peer p).oldestUnacked).toNat ≤ 15) : s.WindowLaw := by
  intro p
  refine ⟨by rw [(hp p).1]; exact Nat.zero_le _, (hp p).2, fun q => ?_⟩
  rw [(hp p).1, if_neg (Nat.not_lt_zero _), List.length_eq_zero_iff, List.filter_eq_nil_iff]
  intro h _
  have := hs h
  cases hx : s.txs.slot h <;> simp_all [Slot.isSentAs, Slot.isOpen, Slot.isQueued]

/-- `offering` with a HELLO of epoch 7 on the line instead, and `offering` under reception. -/
def sendingHello : State := staged (.hello 7) (offering.onTxs fun t => { t with presented := none })
def hearingOffering : State := onLine .receiving offering

/-- The laws of a state with peer 2 LINKED, own address 1 and no slot staged. -/
theorem lawful_of_checks {s : State} (hstaged : s.txs.staged = none ∨ s.txs.staged = some (.hello 7)) (hself : s.peer 1 = .selfEntry) (hlinked : s.peer 2 = linked)
    (habsent : ∀ p, p = 1 ∨ p = 2 ∨ s.peer p = .absentEntry) (hc : s.ControlLaw) (hl : s.LineLaw) (hp : s.PresentedLaw)
    (hs : s.txs.SlotLaw) (he : s.PeerLaw) (hw : s.WindowLaw) (ht : s.StoreLaw)
    (h1 : ∀ h p, (s.txs.slot h).isSentTo p = true → (s.peer p).state = .linked)
    (h2 : ∀ h, (s.txs.slot h).isOpen = true → (s.txs.slot h).isQueued = true ∨ ∃ p, (s.txs.slot h).isSentTo p = true)
    (h3 : ∀ h p, (s.txs.slot h).isQueuedTo p = true → (s.peer p).isLive = true)
    (h4 : s.enabled = false → ∀ h, (s.txs.slot h).isOpen = false) (h5 : s.control.opState ≠ .leaving) : s.Lawful := by
  refine ⟨hc, hl, hp, hs, he, ⟨h1, h2, h3, h4, fun c => absurd c h5, ?_⟩, hw, fun p => ?_, ht⟩
  · rcases hstaged with h | h <;> rw [h] <;> rintro r ⟨⟩
    trivial
  · rcases habsent p with rfl | rfl | h
    · rw [hself]; exact ⟨rfl, Nat.zero_le _⟩
    · rw [hlinked]; exact ⟨⟨by decide, rfl, rfl, by decide, by decide⟩, Nat.zero_le _⟩
    · rw [h]; exact ⟨⟨rfl, rfl⟩, Nat.zero_le _⟩

theorem offering_lawful : offering.Lawful := by
  apply lawful_of_checks
  case hc => unfold State.ControlLaw recordInRange; decide +kernel
  case hl => unfold State.LineLaw; decide +kernel
  case hp => unfold State.PresentedLaw; decide +kernel
  case hs => unfold Txs.SlotLaw; decide +kernel
  case he => unfold State.PeerLaw; decide +kernel
  case hw => exact window_of_unsent (by decide +kernel) (by decide +kernel)
  case ht => unfold State.StoreLaw; decide +kernel
  all_goals decide +kernel

theorem guarded_lawful : guarded.Lawful := by
  apply lawful_of_checks
  case hc => unfold State.ControlLaw recordInRange; decide +kernel
  case hl => unfold State.LineLaw; decide +kernel
  case hp => unfold State.PresentedLaw; decide +kernel
  case hs => unfold Txs.SlotLaw; decide +kernel
  case he => unfold State.PeerLaw; decide +kernel
  case hw => exact window_of_unsent (by decide +kernel) (by decide +kernel)
  case ht => unfold State.StoreLaw; decide +kernel
  all_goals decide +kernel

theorem sendingHello_lawful : sendingHello.Lawful := by
  apply lawful_of_checks
  case hc => unfold State.ControlLaw recordInRange; decide +kernel
  case hl => unfold State.LineLaw; decide +kernel
  case hp => unfold State.PresentedLaw; decide +kernel
  case hs => unfold Txs.SlotLaw; decide +kernel
  case he => unfold State.PeerLaw; decide +kernel
  case hw => exact window_of_unsent (by decide +kernel) (by decide +kernel)
  case ht => unfold State.StoreLaw; decide +kernel
  all_goals decide +kernel

theorem hearingOffering_lawful : hearingOffering.Lawful := by
  apply lawful_of_checks
  case hc => unfold State.ControlLaw recordInRange; decide +kernel
  case hl => unfold State.LineLaw; decide +kernel
  case hp => unfold State.PresentedLaw; decide +kernel
  case hs => unfold Txs.SlotLaw; decide +kernel
  case he => unfold State.PeerLaw; decide +kernel
  case hw => exact window_of_unsent (by decide +kernel) (by decide +kernel)
  case ht => unfold State.StoreLaw; decide +kernel
  all_goals decide +kernel

/-- `offering` under reception, with a score that an address clash takes to GUARDED. -/
def nearGuarded : State := hearingOffering.onHmn fun _ => ⟨90, .sound, 0⟩

theorem nearGuarded_lawful : nearGuarded.Lawful := by
  apply lawful_of_checks
  case hc => unfold State.ControlLaw recordInRange; decide +kernel
  case hl => unfold State.LineLaw; decide +kernel
  case hp => unfold State.PresentedLaw; decide +kernel
  case hs => unfold Txs.SlotLaw; decide +kernel
  case he => unfold State.PeerLaw; decide +kernel
  case hw => exact window_of_unsent (by decide +kernel) (by decide +kernel)
  case ht => unfold State.StoreLaw; decide +kernel
  all_goals decide +kernel

theorem witness_StartedFramesKeepCreditAndLevel :
    (∃ s t h p q c, s.Lawful ∧ s.inReset = false ∧ exec .contentionStarted s = .next t ∧ s.txs.staged = none
      ∧ t.txs.staged = some (.firstSend h p q c))
      ∧ (∃ s t r, s.Lawful ∧ s.inReset = false ∧ exec .contentionStarted s = .next t ∧ s.txs.staged = none
        ∧ s.hmn.level = .guarded ∧ t.txs.staged = some r)
      ∧ (∃ s t r r', s.Lawful ∧ s.inReset = false ∧ s.txs.staged = some r ∧ exec (.sentOk true) s = .next t
        ∧ t.txs.staged = some r')
      ∧ (∃ s t r, s.Lawful ∧ s.inReset = false ∧ s.OnLine .receiving
        ∧ exec (.goodFrame .idleBeforeScore 0x62 helloBytes) s = .next t ∧ t.txs.staged = some r)
      ∧ (∃ s t, s.Lawful ∧ s.inReset = false ∧ s.OnLine .receiving
        ∧ exec (.goodFrame .idleAfterScore 0x61 clashBytes) s = .next t ∧ s.hmn.level = .sound ∧ t.hmn.level = .guarded
        ∧ t.liu.line = .idle ∧ t.txs.staged = none)
      ∧ (∃ s t h p q c, s.Lawful ∧ s.inReset = false ∧ takeInput (.bitTime false .recordFirst) s = .next t
        ∧ s.liu.line = .idle ∧ t.txs.staged = some (.firstSend h p q c))
      ∧ (∃ s t, s.Lawful ∧ s.inReset = false ∧ s.enabled = true ∧ s.liu.line = .receiving
        ∧ takeInput (.bitTime true .recordFirst) s = .next t)
      ∧ (∃ s t, s.Lawful ∧ s.inReset = false ∧ takeInput .sclkFall s = .next t ∧ s.txs.staged = none)
      ∧ ∃ s t, s.Lawful ∧ s.inReset = false ∧ exec .receptionStart s = .next t ∧ s.txs.staged = none ∧ t.txs.staged = none :=
  ⟨⟨offering, sending, some 0, 2, 0, ⟨1, 0, 2⟩, offering_lawful, by decide +kernel, rfl, by decide +kernel, by decide +kernel⟩,
    ⟨guarded, after .contentionStarted guarded, .hello 7, guarded_lawful, by decide +kernel, rfl, by decide +kernel,
      by decide +kernel, by decide +kernel⟩,
    ⟨sendingHello, after (.sentOk true) sendingHello, .hello 7, .firstSend (some 0) 2 0 ⟨1, 0, 2⟩, sendingHello_lawful,
      by decide +kernel, by decide +kernel, rfl, by decide +kernel⟩,
    ⟨hearingOffering, after (.goodFrame .idleBeforeScore 0x62 helloBytes) hearingOffering, .firstSend (some 0) 2 0 ⟨1, 0, 2⟩,
      hearingOffering_lawful, by decide +kernel, ⟨by decide +kernel, by decide +kernel, by decide +kernel⟩, rfl,
      by decide +kernel⟩,
    ⟨nearGuarded, after (.goodFrame .idleAfterScore 0x61 clashBytes) nearGuarded, nearGuarded_lawful, by decide +kernel,
      ⟨by decide +kernel, by decide +kernel, by decide +kernel⟩, rfl, by decide +kernel, by decide +kernel, by decide +kernel,
      by decide +kernel⟩,
    ⟨offering, sampled false offering, some 0, 2, 0, ⟨1, 0, 2⟩, offering_lawful, by decide +kernel, rfl, by decide +kernel,
      by decide +kernel⟩,
    ⟨hearingOffering, sampled true hearingOffering, hearingOffering_lawful, by decide +kernel, by decide +kernel,
      by decide +kernel, rfl⟩,
    ⟨offering, _, offering_lawful, by decide +kernel, rfl, by decide +kernel⟩,
    offering, after .receptionStart offering, offering_lawful, by decide +kernel, rfl, by decide +kernel, by decide +kernel⟩

theorem witness_LostContentionReturnsToReception :
    (staged (.hello 7) running).OnLine .contending ∧ (staged (.hello 7) running).liu.staging = some ⟨0x62, [0x1F, 7, 0]⟩
      ∧ (0x62 : BitVec 7).getLsbD (6 : Fin 7).val = true ∧ (staged (.hello 7) running).liu.matched ≤ 7 - (6 : Fin 7).val
      ∧ (staged (.hello 7) running).control.opState ≠ .leaving
      ∧ ∃ (s : State) (f : StagedFrame), s.OnLine .contending ∧ s.liu.staging = some f ∧ f.contention.getLsbD 1 = true
        ∧ s.liu.matched ≤ 7 - 1
        ∧ s.control.opState = .leaving ∧ s.txs.staged = some (.group (some 1)) ∧ s.txs.slot 1 = .queued groupMessage
        ∧ (126 : BitVec 7).toNat < (127 : BitVec 7).toNat :=
  ⟨⟨rfl, rfl, rfl⟩, rfl, by decide, by decide, by decide,
    staged (.group (some 1)) (withSlot 1 (.queued groupMessage) (inState .leaving running)), _, ⟨rfl, rfl, rfl⟩, rfl, by decide,
    by decide, rfl, rfl, by decide +kernel, by decide⟩

theorem witness_BitTimesDriveTheStagedFrame :
    (∀ n ∈ [0, 7, 8, 118], ∃ s ∈ [matching n .contending, matching n .sending], ∃ f sent, s.inReset = false
      ∧ s.isTransmitting = true ∧ s.liu.staging = some f ∧ (frameElements f.contention f.bytes)[s.liu.matched]? = some sent)
      ∧ sending.liu.elements.length = 119 ∧ sending.liu.elements[1]? = some true ∧ (1 : Nat) + (6 : Fin 7).val = 7
      ∧ sending.liu.elements[2]? = some false ∧ offering.OnLine .idle
      ∧ exec .contentionStarted offering = .next sending ∧ sending.liu.line = .contending := by
  refine ⟨fun n h => ⟨matching n .contending, by simp, ⟨0x41, [0x82, 0x07, 0x05, 0x00, 0x00, 0x82, 0xA1, 0xA2]⟩, ?_⟩,
    by decide +kernel, by decide +kernel, rfl, by decide +kernel, ⟨?_, ?_, ?_⟩, rfl, ?_⟩
  · simp only [List.mem_cons, List.not_mem_nil, or_false] at h
    rcases h with rfl | rfl | rfl | rfl
    · exact ⟨false, by decide +kernel⟩
    · exact ⟨true, by decide +kernel⟩
    · exact ⟨false, by decide +kernel⟩
    · exact ⟨true, by decide +kernel⟩
  all_goals decide +kernel

theorem witness_ReadbackFaultAbortsTheStagedFrame :
    ∀ element ∈ [0, 8, 68], ∃ (s : State) (f : StagedFrame), s.inReset = false ∧ s.isTransmitting = true
      ∧ s.liu.staging = some f ∧ s.liu.matched ≤ element ∧ (s.liu.line = .sending → 8 ≤ element)
      ∧ ∃ recessive, (frameElements f.contention f.bytes)[element]? = some recessive ∧ (8 ≤ element ∨ recessive = false) := by
  intro element h
  refine ⟨staged (.hello 7) running, _, rfl, by decide +kernel, rfl, Nat.zero_le _, fun c => absurd c (by decide), ?_⟩
  simp only [List.mem_cons, List.not_mem_nil, or_false] at h
  rcases h with rfl | rfl | rfl
  · exact ⟨false, by decide +kernel, by decide⟩
  · exact ⟨false, by decide +kernel, by decide⟩
  · exact ⟨true, by decide +kernel, by decide⟩

theorem witness_FirstSendOutcome :
    sending.Sending (.firstSend (some 0) 2 0 ⟨1, 0, 2⟩)
      ∧ (∀ v ∈ [sending.sentCounted, sending.sentCounted.healthReport .sentOk],
          v.txs.slot 0 = .queued message ∧ message.target = .data 2 ∧ (v.peer 2).sessionCount = 1)
      ∧ (staged (.firstSend none 2 0 ⟨1, 0, 2⟩) running).Sending (.firstSend none 2 0 ⟨1, 0, 2⟩)
      ∧ (staged (.firstSend (some 0) 2 0 ⟨9, 0, 2⟩) offering).Sending (.firstSend (some 0) 2 0 ⟨9, 0, 2⟩)
      ∧ (offering.sentCounted.peer 2).sessionCount ≠ 9 ∧ sending.txs.SlotLaw :=
  ⟨⟨by decide +kernel, by decide +kernel, by decide +kernel⟩, by decide +kernel, ⟨rfl, by decide +kernel, rfl⟩,
    ⟨by decide +kernel, by decide +kernel, rfl⟩, by decide +kernel, by unfold Txs.SlotLaw; decide +kernel⟩

theorem witness_ResendAndGroupOutcome :
    (∃ (s : State) (m : Message), s.Sending (.resend (some 0) 2 0 ⟨1, 0, 2⟩) ∧ s.txs.slot 0 = .sent m 0 false
      ∧ m.target = .data 2 ∧ (s.peer 2).sessionCount = 1)
      ∧ (∃ (s : State), s.Sending (.group (some 1)) ∧ s.txs.slot 1 = .queued groupMessage)
      ∧ (staged (.group none) running).Sending (.group none)
      ∧ (staged (.resend none 2 0 ⟨1, 0, 2⟩) running).Sending (.resend none 2 0 ⟨1, 0, 2⟩) :=
  ⟨⟨staged (.resend (some 0) 2 0 ⟨1, 0, 2⟩) outstanding, message,
      ⟨by decide +kernel, by decide +kernel, by decide +kernel⟩, by decide +kernel, by decide +kernel, by decide +kernel⟩,
    ⟨staged (.group (some 1)) (withSlot 1 (.queued groupMessage) running),
      ⟨by decide +kernel, by decide +kernel, by decide +kernel⟩, by decide +kernel⟩,
    ⟨rfl, by decide +kernel, rfl⟩, ⟨rfl, by decide +kernel, rfl⟩⟩

theorem witness_ControlAndHelloOutcome :
    (staged (.control .openFrame 2 ⟨0, 0, 2⟩) (withPeer syncing)).Sending (.control .openFrame 2 ⟨0, 0, 2⟩)
      ∧ (staged (.hello 7) running).Sending (.hello 7) :=
  ⟨⟨rfl, by decide +kernel, rfl⟩, rfl, by decide +kernel, rfl⟩

/-- LEAVING in its last TU. -/
def leaving : State := (inState .leaving running).onControl fun c => { c with leaveLimit := 1, leavingHelloDue := true }

theorem witness_LeavingEndsInReady :
    (staged (.leavingHello 7) leaving).Sending (.leavingHello 7) ∧ (staged (.leavingHello 7) leaving).control.opState = .leaving
      ∧ leaving.inReset = false ∧ leaving.control.opState = .leaving ∧ leaving.control.leaveLimit = 1
      ∧ (∀ h, leaving.txs.staged ≠ some (.group (some h)))
      ∧ ∃ s : State, s.inReset = false ∧ s.control.opState = .leaving ∧ s.control.leaveLimit = 1
        ∧ s.txs.staged = some (.group (some 1)) ∧ s.txs.slot 1 = .queued groupMessage :=
  ⟨⟨rfl, by decide +kernel, rfl⟩, rfl, rfl, rfl, rfl, by decide +kernel,
    staged (.group (some 1)) (withSlot 1 (.queued groupMessage) leaving), rfl, rfl, rfl, rfl, by decide +kernel⟩

/-- A score at which each clause of the health statement is met: 0 less 1, 184 and 88 plus 8, 64 less 1, 0 plus 1, and 66
less 2. -/
theorem witness_HealthReportsMoveScoreAndLevel :
    (scoreAfter .goodFrame 0 = 0) ∧ scoreAfter .readbackFault 184 = 192 ∧ scoreAfter .addressClash 88 = 96
      ∧ scoreAfter .goodFrame 64 = 63 ∧ scoreAfter .checkError 0 = 1 ∧ scoreAfter .sentOk 66 = 64
      ∧ running.control.opState = .running ∧ running.hmn.level = .sound ∧ guarded.control.opState = .running
      ∧ guarded.hmn.level = .guarded ∧ (inState .detached running).control.opState ≠ .running := by decide +kernel

theorem outstanding_slotLaw : outstanding.txs.SlotLaw := by unfold Txs.SlotLaw; decide +kernel

/-- Peer 2 with a SENT slot, a staged QUEUED slot and another QUEUED slot. -/
def busy : State :=
  staged (.firstSend (some 1) 2 1 ⟨1, 0, 2⟩) (withSlot 2 (.queued message) (withSlot 1 (.queued message) outstanding))

theorem witness_SessionRestartCompletesInOrder :
    busy.txs.SlotLaw ∧ busy.txs.slot 0 = .sent message 0 false ∧ busy.txs.slot 1 = .queued message
      ∧ busy.txs.stagedHandle = some 1 ∧ busy.txs.order = [0, 1, 2] := by
  refine ⟨by unfold Txs.SlotLaw; decide +kernel, ?_⟩
  decide +kernel

theorem witness_SessionEndCompletesInOrder : busy.txs.SlotLaw ∧ busy.txs.slot 2 = .queued message := by
  refine ⟨by unfold Txs.SlotLaw; decide +kernel, ?_⟩
  decide +kernel

theorem witness_AckAndLimitAreJudgedThenApplied :
    outstanding.txs.SlotLaw ∧ (outstanding.peer 2).oldestUnacked = 0 ∧ (outstanding.peer 2).nextTxSeq = 1
      ∧ (∀ a ∈ [(0 : Seq), 1], (a - 0).toNat ≤ ((1 : Seq) - 0).toNat ∧ (a + 15 - a).toNat ≤ 15)
      ∧ ¬((2 : Seq) - 0).toNat ≤ ((1 : Seq) - 0).toNat ∧ ¬((0 : Seq) + 16 - 0).toNat ≤ 15 :=
  ⟨outstanding_slotLaw, by decide +kernel⟩

theorem witness_GrantsServeEligiblePeersInRotation :
    (withPeer { linked with grantLimit := 1 }).nextGrant = some 2 ∧ running.nextGrant = none
      ∧ (withPeer { linked with grantLimit := 0 }).cfg.quota ≤ 15 ∧ (inState .detached running).control.opState ≠ .running := by
  decide +kernel

theorem witness_AcceptingEntryIsLowestMatch :
    acceptingEntry running.cfg.filters 0xFF = some 3 ∧ running.mst.storedGroup < running.cfg.headroom := by decide +kernel

/-- A frame arrives from peer 2. -/
theorem arrives {contention : BitVec 7} {bytes : List Byte} {f : FrameBody} {s : State} (hl : s.OnLine .receiving)
    (hf : receiveFrame (assembledContention s.liu.assembly.bits contention) (assembledBytes s.liu.assembly bytes)
      = some (stationAddress 2, f))
    (ho : stationAddress 2 ≠ s.control.ownAddr) (hr : (s.beforeRecord .recordFirst contention bytes).isRunning = true) :
    Arrives .recordFirst contention bytes 2 f s (s.beforeRecord .recordFirst contention bytes) :=
  ⟨hl, hf, ho, rfl, hr⟩

/-- `running` under reception, with an entry at address 2. -/
def hearing (e : PeerEntry) : State := onLine .receiving (withPeer e)

theorem hearing_onLine (e : PeerEntry) : (hearing e).OnLine .receiving := ⟨rfl, rfl, rfl⟩

theorem witness_FramesNotForThisStationOnlyCount :
    (∃ f, receiveFrame (assembledContention receiving.liu.assembly.bits 0x61) (assembledBytes receiving.liu.assembly clashBytes) = some (receiving.control.ownAddr, f))
      ∧ receiving.OnLine .receiving ∧ (inState .detached receiving).OnLine .receiving
      ∧ (∃ f, receiveFrame (assembledContention receiving.liu.assembly.bits 0x62) (assembledBytes receiving.liu.assembly helloBytes) = some (2, f))
      ∧ (2 : Address) ≠ receiving.control.ownAddr
      ∧ (offering.inReset = false ∧ offering.enabled = true ∧ offering.liu.line = .idle ∧ offering.txs.staged = none)
      ∧ receiving.liu.line ≠ .idle
      ∧ ∀ e ∈ [linked, { linked with peerEpoch := 9 }],
          Arrives .recordFirst 0x02 overheardBytes 2 (.control .creditFrame 3 5 7 0 9) (hearing e)
            ((hearing e).beforeRecord .recordFirst 0x02 overheardBytes) := by
  refine ⟨⟨.hello 5 false, by decide +kernel⟩, ⟨rfl, rfl, rfl⟩, ⟨rfl, rfl, rfl⟩, ⟨.hello 5 false, by decide +kernel⟩, by decide, by decide +kernel, by decide, ?_⟩
  intro e he
  refine arrives (hearing_onLine e) ?_ (show stationAddress 2 ≠ (1 : Address) by decide) ?_
  · show receiveFrame (assembledContention [] 0x02) (assembledBytes .empty overheardBytes) = _
    decide +kernel
  · simp only [List.mem_cons, List.not_mem_nil, or_false] at he
    rcases he with rfl | rfl <;> decide +kernel

theorem witness_HelloResynchronisesOrRefreshes :
    (∀ e ∈ [PeerEntry.absentEntry, { PeerEntry.absentEntry with state := .lost, peerEpoch := 4 }, syncing, linked,
        { linked with peerEpoch := 9 }],
      Arrives .recordFirst 0x62 helloBytes 2 (.hello 5 false) (hearing e)
        ((hearing e).beforeRecord .recordFirst 0x62 helloBytes))
      ∧ ∀ e ∈ [PeerEntry.absentEntry, { PeerEntry.absentEntry with state := .lost, peerEpoch := 4 }, linked],
        Arrives .recordFirst 0x62 leavingBytes 2 (.hello 5 true) (hearing e)
          ((hearing e).beforeRecord .recordFirst 0x62 leavingBytes) := by
  refine ⟨fun e he => arrives (hearing_onLine e) ?_ (show stationAddress 2 ≠ (1 : Address) by decide) ?_,
    fun e he => arrives (hearing_onLine e) ?_ (show stationAddress 2 ≠ (1 : Address) by decide) ?_⟩
  · show receiveFrame (assembledContention [] 0x62) (assembledBytes .empty helloBytes) = _
    decide +kernel
  · simp only [List.mem_cons, List.not_mem_nil, or_false] at he
    rcases he with rfl | rfl | rfl | rfl | rfl <;> decide +kernel
  · show receiveFrame (assembledContention [] 0x62) (assembledBytes .empty leavingBytes) = _
    decide +kernel
  · simp only [List.mem_cons, List.not_mem_nil, or_false] at he
    rcases he with rfl | rfl | rfl <;> decide +kernel

theorem witness_OpenLinksOrResynchronises :
    (∀ e ∈ [PeerEntry.absentEntry, linked],
      Arrives .recordFirst 0x02 openBytes 2 (.control .openFrame ((hearing e).beforeRecord .recordFirst 0x02 openBytes).control.ownAddr
        5 7 0 2) (hearing e) ((hearing e).beforeRecord .recordFirst 0x02 openBytes))
      ∧ (2 : Seq).toNat ≤ 15 ∧ (hearing linked).control.epoch = 7 := by
  refine ⟨fun e he => ?_, by decide, rfl⟩
  simp only [List.mem_cons, List.not_mem_nil, or_false] at he
  rcases he with rfl | rfl <;>
    exact arrives (hearing_onLine _) (by decide +kernel) (by decide +kernel) (by decide +kernel)

theorem witness_AcceptAndCreditCarryAckAndLimit :
    Arrives .recordFirst 0x02 acceptBytes 2 (.control .acceptFrame
        ((hearing syncing).beforeRecord .recordFirst 0x02 acceptBytes).control.ownAddr 5 7 0 2) (hearing syncing)
        ((hearing syncing).beforeRecord .recordFirst 0x02 acceptBytes)
      ∧ Arrives .recordFirst 0x02 creditBytes 2 (.control .creditFrame
        ((hearing linked).beforeRecord .recordFirst 0x02 creditBytes).control.ownAddr 5 7 0 9) (hearing linked)
        ((hearing linked).beforeRecord .recordFirst 0x02 creditBytes)
      ∧ (hearing linked).control.epoch = 7 ∧ ((hearing linked).takeAckLimit 2 0 9).isSome = true
      ∧ ((hearing syncing).takeAckLimit 2 0 2).isSome = true ∧ ((hearing linked).takeAckLimit 2 1 2).isSome = false := by
  refine ⟨arrives (hearing_onLine _) ?_ ?_ ?_, arrives (hearing_onLine _) ?_ ?_ ?_, rfl, ?_, ?_, ?_⟩ <;> decide +kernel

theorem witness_DataIsStoredInSequenceWithinCredit :
    (∀ e ∈ [linked, { linked with expected := 2, grantLimit := 2 }, { linked with expected := 33 },
        { linked with expected := 0, grantLimit := 0 }, { linked with expected := 32, grantLimit := 33 }],
      Arrives .recordFirst 0x42 dataBytes 2 (.data ((hearing e).beforeRecord .recordFirst 0x42 dataBytes).control.ownAddr
        5 7 0 0 3 [0xB1, 0xB2]) (hearing e) ((hearing e).beforeRecord .recordFirst 0x42 dataBytes)
        ∧ ((hearing e).takeAckLimit 2 0 3).isSome = true)
      ∧ (hearing linked).control.epoch = 7 := by
  refine ⟨fun e he => ?_, rfl⟩
  simp only [List.mem_cons, List.not_mem_nil, or_false] at he
  rcases he with rfl | rfl | rfl | rfl | rfl <;>
    exact ⟨arrives (hearing_onLine _) (by decide +kernel) (by decide +kernel) (by decide +kernel), by decide +kernel⟩

theorem witness_GroupIsFilteredThenStoredInHeadroom :
    Arrives .recordFirst 0x22 groupBytes 2 (.group 0x45 [0xCC]) (hearing linked)
        ((hearing linked).beforeRecord .recordFirst 0x22 groupBytes)
      ∧ acceptingEntry (hearing linked).cfg.filters 0x45 = some 0 ∧ (hearing linked).mst.storedGroup < (hearing linked).cfg.headroom
      ∧ acceptingEntry (hearing linked).cfg.filters 0x12 = none
      ∧ (hearing linked).cfg.headroom ≤ ((hearing linked).onMst (Mst.store ⟨7, .group 0 9, [], 0⟩)).mst.storedGroup := by
  refine ⟨arrives (hearing_onLine _) ?_ ?_ ?_, ?_, ?_, ?_, ?_⟩ <;> decide +kernel

theorem witness_PeerTimersRetryThenLoseThePeer :
    (∀ n ∈ [1, 2], let s := withPeer { syncing with joinTimer := 1, retryCount := n }
      s.inReset = false ∧ s.hmn.level = .sound ∧ (s.peer 2).state = .syncing ∧ (s.peer 2).joinTimer = 1)
      ∧ (∀ n ∈ [1, 2], let s := outstanding.onPeer 2 fun e => { e with ackTimer := 1, retryCount := n }
        s.inReset = false ∧ s.hmn.level = .sound ∧ (s.peer 2).state = .linked ∧ (s.peer 2).ackTimer = 1)
      ∧ outstanding.cfg.maxRetries = 2 ∧ outstanding.txs.SlotLaw
      ∧ ((withPeer { linked with silenceTimer := 1 }).peer 2).silenceTimer = 1 :=
  ⟨by decide +kernel, by decide +kernel, by decide +kernel, outstanding_slotLaw, by decide +kernel⟩

theorem witness_TimersExpireWithTheirEffectOrNotAtAll :
    ((withPeer { linked with ackPending := true, ackDelayTimer := 1 }).peer 2).ackDelayTimer = 1
      ∧ (running.onPen fun n => { n with helloTimer := 1 }).pen.helloTimer = 1 ∧ running.control.opState = .running
      ∧ ((inState .detached running).onHmn fun _ => ⟨197, .guarded, 1⟩).hmn.holdoff = 1 ∧ running.inReset = false
      ∧ (offering.peer 2).joinTimer ≠ 1 ∧ guarded.hmn.level = .guarded
      ∧ ((withPeer { linked with silenceTimer := 2 }).peer 2).silenceTimer ≠ 1
      ∧ (offering.peer 2).ackDelayTimer ≠ 1 ∧ offering.pen.helloTimer ≠ 1 ∧ offering.hmn.holdoff ≠ 1
      ∧ offering.control.leaveLimit ≠ 1 := by decide +kernel

theorem offering_messages : offering.MessageLaw := by unfold State.MessageLaw; decide +kernel

theorem witness_ChoiceIsFirstOfTheCandidates :
    offering.txs.SlotLaw ∧ offering.WindowLaw ∧ offering.MessageLaw ∧ offering.choose = some (.firstSend 0 2)
      ∧ running.choose = none :=
  ⟨offering_lawful.2.2.2.1, offering_lawful.2.2.2.2.2.2.1, offering_messages, by decide +kernel, by decide +kernel⟩

theorem witness_EveryFrameReadsBackAsBuilt : (List.replicate 48 (0xFF : Byte)).length ≤ 48 := by decide

theorem witness_FrameLengthFollowsItsKind : (bytePhase 0x62 [0x1F, 5, 0])[4]? = some 0xDD := by decide +kernel

theorem witness_FrameCheckCatchesOneWrongByte : (0x00 : Byte) ≠ 0x80 := by decide

/-- For IrqFollowsEnabledQueues, BoundsAreKept, OperatingStatesStayConsistent, LineUnitAndPresentationAgree,
SlotListsHoldEachSlotOnce, UncarriedAcksAndGrantsStayDue, StoreIsNeverOvercommitted, SendWindowsMatchTheirSlots and
EntriesHoldWhatTheirStateAllows: a state that meets every law and takes a step which changes it. -/
theorem witness_invariants :
    ∃ s t : State, s.Lawful ∧ s.AssemblyLaw ∧ s.IrqLaw ∧ s.BoundsLaw ∧ s.MessageLaw ∧ s.PortLaw ∧ (∀ p, (s.peer p).CarryLaw) ∧ step s = .next t
      ∧ t.txs.staged ≠ s.txs.staged ∧ running.hpt.notices.length < 16
      ∧ 16 ≤ (running.onHpt fun t => { t with notices := List.replicate 16 ⟨.addressClash, 0⟩ }).hpt.notices.length :=
  ⟨{ offering with pending := [.contentionStarted] }, sending, offering_lawful, by unfold State.AssemblyLaw; decide +kernel, by unfold State.IrqLaw; decide +kernel,
    by unfold State.BoundsLaw; decide +kernel, offering_messages, ⟨by decide +kernel, by decide +kernel, nofun, nofun, nofun⟩,
    by unfold PeerEntry.CarryLaw; decide +kernel, rfl,
    by decide +kernel, by decide, by decide⟩

end Sys2Proof.Tests
end

section
/-! PROOFS. The elements of a frame, and the frame check (R4, R5, R16). -/

namespace Sys2Proof.Machine

/-! ### The elements of a frame -/

@[simp] theorem contentionBits_length (c : BitVec 7) : (contentionBits c).length = 7 := rfl
@[simp] theorem dataBits_length (b : Byte) : (dataBits b).length = 8 := rfl
@[simp] theorem byteElements_length (b : Byte) : (byteElements b).length = 10 := rfl

@[simp] theorem bytePhase_length (c : BitVec 7) (bytes : List Byte) :
    (bytePhase c bytes).length = bytes.length + 2 := by
  simp [bytePhase, bytesOf16]

/-- Bit 6 of the contention value comes first (R5). -/
theorem getElem?_contentionBits (c : BitVec 7) {i : Nat} (h : i < 7) :
    (contentionBits c)[i]? = some (c.getLsbD (6 - i)) := by
  interval_cases i <;> rfl

/-- The least significant data bit comes first (R4). -/
theorem getElem?_dataBits (b : Byte) {i : Nat} (h : i < 8) : (dataBits b)[i]? = some (b.getLsbD i) := by
  simp [dataBits, h]

theorem getElem?_byteElements_data (b : Byte) {j : Nat} (h : j < 8) :
    (byteElements b)[1 + j]? = some (b.getLsbD j) := by
  rw [byteElements, List.cons_append, Nat.add_comm, List.getElem?_cons_succ,
    List.getElem?_append_left (by simpa using h), getElem?_dataBits b h]

@[simp] theorem flatMap_byteElements_length (bs : List Byte) : (bs.flatMap byteElements).length = 10 * bs.length := by
  simp [List.length_flatMap, Nat.mul_comm]

/-- Byte `i` of a byte phase takes the ten elements from `10 * i` on (R4). -/
theorem getElem?_flatMap_byteElements {bs : List Byte} {i j : Nat} {b : Byte} (hb : bs[i]? = some b) (hj : j < 10) :
    (bs.flatMap byteElements)[10 * i + j]? = (byteElements b)[j]? := by
  induction bs generalizing i with
  | nil => simp at hb
  | cons first rest ih =>
    rw [List.flatMap_cons]
    cases i with
    | zero =>
      obtain rfl : first = b := by simpa using hb
      rw [List.getElem?_append_left (by simpa using hj)]
      simp
    | succ i =>
      rw [List.getElem?_append_right (by simp; omega), byteElements_length, ← ih (by simpa using hb)]
      congr 1
      omega

@[simp] theorem frameElements_length (c : BitVec 7) (bytes : List Byte) :
    (frameElements c bytes).length = 1 + 7 + 10 * (bytes.length + 2) + 11 := by
  simp [frameElements]; omega

theorem getElem?_frameElements_start (c : BitVec 7) (bytes : List Byte) : (frameElements c bytes)[0]? = some false := rfl

/-- The contention field follows the start element (R4, R5). -/
theorem getElem?_frameElements_contention (c : BitVec 7) (bytes : List Byte) {i : Nat} (h : i < 7) :
    (frameElements c bytes)[1 + i]? = some (c.getLsbD (6 - i)) := by
  rw [frameElements, List.append_assoc, List.cons_append, Nat.add_comm, List.getElem?_cons_succ,
    List.getElem?_append_left (by simpa using h), getElem?_contentionBits c h]

/-- The byte phase follows the contention field (R4). -/
theorem getElem?_frameElements_byte {c : BitVec 7} {bytes : List Byte} {i j : Nat} {b : Byte}
    (hb : (bytePhase c bytes)[i]? = some b) (hj : j < 10) :
    (frameElements c bytes)[8 + 10 * i + j]? = (byteElements b)[j]? := by
  have hi : i < bytes.length + 2 := by simpa using (List.getElem?_eq_some_iff.1 hb).1
  rw [frameElements, List.getElem?_append_left (by simp; omega), List.getElem?_append_right (by simp; omega),
    ← getElem?_flatMap_byteElements hb hj]
  congr 1
  simp
  omega

/-- The end marker follows the byte phase (R4). -/
theorem getElem?_frameElements_marker (c : BitVec 7) (bytes : List Byte) {i : Nat} (h : i < 11) :
    (frameElements c bytes)[8 + 10 * (bytes.length + 2) + i]? = some true := by
  rw [frameElements, List.getElem?_append_right (by simp; omega), List.getElem?_replicate, if_pos (by simp; omega)]

/-- How many bytes a frame's byte phase has before its CRC (R13, R14). -/
theorem frameBytes_length (f : FrameBody) :
    (frameBytes f).length = match f with
      | .hello _ _ => 3
      | .control _ _ _ _ _ _ => 5
      | .data _ _ _ _ _ _ payload => 6 + payload.length
      | .group _ payload => 3 + payload.length := by
  cases f <;> simp [frameBytes, packTwo, packFour] <;> omega

/-- Settles O50: the elements of the start, the contention field, each byte and the end marker stand one after another. -/
theorem frameLengthFollowsItsKind : Obligations.FrameLengthFollowsItsKind := by
  refine ⟨fun c bytes => ⟨frameElements_length c bytes, getElem?_frameElements_start c bytes,
    fun i hi => getElem?_frameElements_contention c bytes hi, fun i hi => ?_, fun i b hb j hj => ?_,
    fun i hi => getElem?_frameElements_marker c bytes hi⟩, fun c f => ?_⟩
  · have hb : (bytePhase c bytes)[i]? = some _ := List.getElem?_eq_getElem (by simpa using hi)
    exact ⟨getElem?_frameElements_byte hb (j := 0) (by omega), getElem?_frameElements_byte hb (j := 9) (by omega)⟩
  · rw [Nat.add_assoc, getElem?_frameElements_byte hb (by omega), getElem?_byteElements_data b hj]
  · rw [frameElements_length, frameBytes_length]
    cases f <;> simp only <;> omega

/-! ### The frame check -/

/-- One bit of the CRC, with the bit taken in at the top (R16). -/
def crcTake (r : BitVec 16) (bit : Bool) : BitVec 16 := if r.getLsbD 15 ≠ bit then (r <<< 1) ^^^ 0x1021 else r <<< 1

/-- A register that holds the bits still to come in its high bits takes the first of them (R16). -/
theorem crcBit_xor (r x : BitVec 16) : crcBit (r ^^^ x) = crcTake r x.msb ^^^ (x <<< 1) := by
  have hr : r.getLsbD 15 = r.msb := (BitVec.msb_eq_getLsbD_last r).symm
  rw [crcBit, crcTake, BitVec.msb_xor, hr, BitVec.shiftLeft_xor_distrib]
  cases r.msb <;> cases x.msb <;> simp [BitVec.xor_assoc, BitVec.xor_comm (x <<< 1)]

/-- A byte value is taken in bit by bit, the most significant first (R16). -/
theorem crcByte_eq_foldl (r : BitVec 16) (b : Byte) :
    crcByte r b = ([7, 6, 5, 4, 3, 2, 1, 0].map b.getLsbD).foldl crcTake r := by
  have hmsb : ∀ b : Byte, (List.range 8).map (fun k => (b.setWidth 16 <<< 8 <<< k).msb)
      = [7, 6, 5, 4, 3, 2, 1, 0].map b.getLsbD := by decide +kernel
  have hend : b.setWidth 16 <<< 8 <<< 8 = 0#16 := by
    rw [← BitVec.shiftLeft_add]; exact BitVec.shiftLeft_eq_zero (by decide)
  have hfold : ∀ n, (List.range n).foldl (fun r _ => crcBit r) (r ^^^ (b.setWidth 16 <<< 8))
      = ((List.range n).map fun k => (b.setWidth 16 <<< 8 <<< k).msb).foldl crcTake r ^^^ (b.setWidth 16 <<< 8 <<< n) := by
    intro n
    induction n with
    | zero => simp
    | succ n ih =>
      rw [List.range_succ, List.foldl_append, ih, List.map_append, List.foldl_append, List.foldl_cons, List.foldl_nil,
        crcBit_xor, BitVec.shiftLeft_add]
      rfl
  rw [crcByte, hfold, hmsb, hend, BitVec.xor_zero]

/-- The frame check of a sequence of byte values, bit by bit (R16). -/
theorem foldl_crcByte (values : List Byte) (r : BitVec 16) :
    values.foldl crcByte r = (values.flatMap fun v => [7, 6, 5, 4, 3, 2, 1, 0].map v.getLsbD).foldl crcTake r := by
  induction values generalizing r with
  | nil => rfl
  | cons v values ih => rw [List.foldl_cons, ih, List.flatMap_cons, List.foldl_append, crcByte_eq_foldl]

/-- One bit of the CRC loses nothing: the lowest bit of the outcome tells whether the generator was added (R16). -/
theorem crcBit_injective : Function.Injective crcBit := by
  have hlow : ∀ r, (crcBit r).getLsbD 0 = r.msb := fun r => by
    rw [crcBit]; cases r.msb <;> simp
  have hshift : ∀ r, crcBit r = (r <<< 1) ^^^ (if r.msb then 0x1021 else 0) := fun r => by
    rw [crcBit]; cases r.msb <;> simp
  intro r r' h
  have hm : r.msb = r'.msb := by rw [← hlow, h, hlow]
  rw [hshift, hshift, hm, BitVec.xor_left_inj] at h
  refine BitVec.eq_of_getElem_eq fun i hi => ?_
  by_cases h15 : i = 15
  · subst h15; simpa [BitVec.msb_eq_getLsbD_last] using hm
  · have := congrArg (fun x => x.getLsbD (i + 1)) h
    simpa [BitVec.getLsbD_shiftLeft, show i + 1 < 16 by omega] using this

theorem foldl_crcBit_injective {α : Type} (l : List α) : Function.Injective fun r => l.foldl (fun r _ => crcBit r) r := by
  induction l with
  | nil => exact Function.injective_id
  | cons _ l ih => exact ih.comp crcBit_injective

/-- From two registers one byte value leads to two (R16). -/
theorem crcByte_injective_left (b : Byte) : Function.Injective fun r => crcByte r b := fun _ _ h =>
  BitVec.xor_left_inj _ |>.1 (foldl_crcBit_injective (List.range 8) h)

/-- From one register two byte values lead to two (R16). -/
theorem crcByte_injective_right (r : BitVec 16) : Function.Injective (crcByte r) := fun b b' h => by
  have hx := (BitVec.xor_right_inj _).1 (foldl_crcBit_injective (List.range 8) h)
  refine BitVec.eq_of_getLsbD_eq fun i hi => ?_
  have := congrArg (fun x => x.getLsbD (i + 8)) hx
  simpa [BitVec.getLsbD_shiftLeft, BitVec.getLsbD_setWidth, show i + 8 < 16 by omega] using this

theorem foldl_crcByte_injective (values : List Byte) : Function.Injective fun r => values.foldl crcByte r := by
  induction values with
  | nil => exact Function.injective_id
  | cons v values ih => exact ih.comp (crcByte_injective_left v)

/-- Settles O49: the CRC bit by bit, and that each byte value taken in loses nothing of the register or of the byte. -/
theorem frameCheckCatchesOneWrongByte : Obligations.FrameCheckCatchesOneWrongByte := by
  refine ⟨fun values => foldl_crcByte values _, by decide +kernel, fun contention bytes => ?_,
    fun before after right wrong hne h => ?_⟩
  · rw [bytePhase, bytesOf16, frameCheck, BitVec.ofNat_toNat]
  · rw [crc16, crc16, List.foldl_append, List.foldl_append, List.foldl_cons, List.foldl_cons] at h
    exact hne (crcByte_injective_right _ (foldl_crcByte_injective after h))

end Sys2Proof.Machine
end

section
/-! PROOFS. The layout of a frame, and what a receiver reads from it (R13 to R18). -/

namespace Sys2Proof.Machine

/-! ### The layout of a frame -/

theorem toNat_append_eq {m n : Nat} (a : BitVec m) (b : BitVec n) : (a ++ b).toNat = a.toNat * 2 ^ n + b.toNat := by
  rw [BitVec.toNat_append, ← Nat.shiftLeft_add_eq_or_of_lt b.isLt, Nat.shiftLeft_eq]

theorem toNat_extractLsb'_eq {m : Nat} (a : BitVec m) (i n : Nat) :
    (a.extractLsb' i n).toNat = a.toNat / 2 ^ i % 2 ^ n := by
  rw [BitVec.extractLsb'_toNat, Nat.shiftRight_eq_div_pow]

/-- The first byte of a byte phase is 32 × kind code + destination (R13). -/
theorem firstByte_eq (k : BitVec 3) (d : Address) : (k ++ d : Byte) = BitVec.ofNat 8 (32 * k.toNat + d.toNat) := by
  simp only [← BitVec.toNat_inj, toNat_append_eq, BitVec.toNat_ofNat]
  omega

theorem packTwo_eq (a b : Seq) :
    packTwo a b = [BitVec.ofNat 8 (4 * a.toNat + b.toNat / 16), BitVec.ofNat 8 (16 * (b.toNat % 16))] := by
  simp only [packTwo, List.cons.injEq, and_true, ← BitVec.toNat_inj, toNat_append_eq, toNat_extractLsb'_eq,
    BitVec.ofNat_eq_ofNat, BitVec.toNat_ofNat]
  omega

theorem packFour_eq (a b c d : BitVec 6) :
    packFour a b c d = [BitVec.ofNat 8 (4 * a.toNat + b.toNat / 16), BitVec.ofNat 8 (16 * (b.toNat % 16) + c.toNat / 4),
      BitVec.ofNat 8 (64 * (c.toNat % 4) + d.toNat)] := by
  simp only [packFour, List.cons.injEq, and_true, ← BitVec.toNat_inj, toNat_append_eq, toNat_extractLsb'_eq,
    BitVec.toNat_ofNat]
  omega

/-! ### What a receiver reads -/

/-- A receiver whose CRC check passes reads the bytes before the CRC (R16, R18). -/
theorem receiveFrame_bytePhase (c : BitVec 7) (bytes : List Byte) :
    receiveFrame c (bytePhase c bytes) = (readFrame bytes).map fun f => (contentionSource c, f) := by
  have hdrop : (bytePhase c bytes).length - 2 = bytes.length := by simp
  simp only [receiveFrame, hdrop]
  rw [bytePhase, List.take_left, List.drop_left, if_pos ⟨by simp [bytesOf16], rfl⟩]

theorem contentionSource_contentionValue (u : BitVec 2) (a : Address) : contentionSource (contentionValue u a) = a := by
  simp only [contentionSource, contentionValue, ← BitVec.toNat_inj, toNat_append_eq, toNat_extractLsb'_eq]
  omega

theorem extractLsb'_kind (k : BitVec 3) (d : Address) : (k ++ d : Byte).extractLsb' 5 3 = k := by
  simp only [← BitVec.toNat_inj, toNat_append_eq, toNat_extractLsb'_eq]
  omega

theorem destinationOf_append (k : BitVec 3) (d : Address) : destinationOf (k ++ d) = d := by
  simp only [destinationOf, ← BitVec.toNat_inj, toNat_append_eq, toNat_extractLsb'_eq]
  omega

/-- Two packed values and their spare bits read back (R14). -/
theorem readControl_packTwo (k : ControlKind) (code : BitVec 3) (dest : Address) (se de : Epoch) (ack limit : Seq) :
    ∃ b4 b5, packTwo ack limit = [b4, b5]
      ∧ readControl k (code ++ dest) se de b4 b5 = .control k dest se de ack limit := by
  refine ⟨_, _, rfl, ?_⟩
  simp only [readControl, destinationOf_append, FrameBody.control.injEq, true_and, ← BitVec.toNat_inj, toNat_append_eq,
    toNat_extractLsb'_eq]
  omega

/-- Four packed values read back, the last being the length of the payload (R14). -/
theorem readData_packFour (code : BitVec 3) (dest : Address) (se de : Epoch) (seq ack limit : Seq) {payload : List Byte}
    (h : payload.length ≤ 48) :
    ∃ b4 b5 b6, packFour seq ack limit (BitVec.ofNat 6 payload.length) = [b4, b5, b6]
      ∧ readData (code ++ dest) se de b4 b5 b6 payload = some (.data dest se de seq ack limit payload) := by
  refine ⟨_, _, _, rfl, ?_⟩
  rw [readData, if_pos]
  · simp only [destinationOf_append, Option.some.injEq, FrameBody.data.injEq, true_and, and_true, ← BitVec.toNat_inj,
      toNat_append_eq, toNat_extractLsb'_eq]
    omega
  · simp only [toNat_append_eq, toNat_extractLsb'_eq, BitVec.toNat_ofNat, Config.payloadMax]
    omega

theorem readGroup_length (tag : Byte) {payload : List Byte} (h : payload.length ≤ 48) :
    readGroup tag (BitVec.ofNat 8 payload.length) payload = some (.group tag payload) := by
  rw [readGroup, if_pos]
  simp only [toNat_extractLsb'_eq, BitVec.toNat_ofNat, Config.payloadMax]
  omega

theorem readHello_leaving (epoch : Epoch) (leaving : Bool) :
    readHello ((0 : BitVec 3) ++ allStations) epoch (if leaving then 1 else 0) = some (.hello epoch leaving) := by
  rw [readHello, destinationOf_append, if_pos rfl]
  cases leaving <;> rfl

/-- The fields a frame was built from are those read from its bytes (R14, R15, R18). -/
theorem readFrame_frameBytes {f : FrameBody}
    (h : match f with
      | .hello _ _ => True
      | .control _ _ _ _ _ _ => True
      | .data _ _ _ _ _ _ payload => payload.length ≤ 48
      | .group _ payload => payload.length ≤ 48) : readFrame (frameBytes f) = some f := by
  cases f with
  | hello epoch leaving =>
    simp only [frameBytes, kindCode, destinationField, readFrame, extractLsb'_kind]
    exact readHello_leaving epoch leaving
  | control k dest se de ack limit =>
    obtain ⟨b4, b5, hpack, hread⟩ := readControl_packTwo k (controlCode k) dest se de ack limit
    simp only [frameBytes, hpack, kindCode, destinationField, readFrame, extractLsb'_kind]
    cases k <;> exact congrArg some hread
  | data dest se de seq ack limit payload =>
    obtain ⟨b4, b5, b6, hpack, hread⟩ := readData_packFour 4 dest se de seq ack limit h
    simp only [frameBytes, hpack, kindCode, destinationField, readFrame, extractLsb'_kind]
    exact hread
  | group tag payload =>
    simp only [frameBytes, kindCode, destinationField, readFrame, extractLsb'_kind]
    exact readGroup_length tag h

/-- Settles O48: the layout field by field, and each field read back from its place. -/
theorem everyFrameReadsBackAsBuilt : Obligations.EveryFrameReadsBackAsBuilt := by
  refine ⟨fun f => ?_, fun urgency source f h => ?_⟩
  · cases f with
    | hello epoch leaving =>
      simp only [frameBytes, firstByte_eq, kindCode, destinationField]
      cases leaving <;> rfl
    | control k dest se de ack limit =>
      simp only [frameBytes, firstByte_eq, packTwo_eq, kindCode, destinationField]
      cases k <;> rfl
    | data dest se de seq ack limit payload =>
      intro _ h
      have hlength : payload.length % 2 ^ 6 = payload.length := Nat.mod_eq_of_lt (by omega)
      simp only [frameBytes, firstByte_eq, packFour_eq, kindCode, destinationField, BitVec.toNat_ofNat, hlength]
      rfl
    | group tag payload =>
      intro _ _
      simp only [frameBytes, firstByte_eq, kindCode, destinationField]
      rfl
  · rw [receiveFrame_bytePhase, readFrame_frameBytes h, contentionSource_contentionValue]
    rfl

end Sys2Proof.Machine
end

section
/-! PROOFS. Recovery, the start of a reception, check errors, and the staging of a frame. -/

namespace Sys2Proof.Machine

/-! ### The enabled LIU in a line state -/

theorem State.OnLine.lineIs {s : State} {l : LineState} (h : s.OnLine l) : s.lineIs l = true := by
  simp [State.lineIs, h.2.1, h.2.2]

theorem State.OnLine.lineIdle {s : State} (h : s.OnLine .idle) : s.lineIdle = true := by
  simp [State.lineIdle, h.2.1, h.2.2]

section
variable {s : State} {recessive : Bool} {order : FrameOrder}

/-! One bit time of the enabled LIU is taken by the line state it stands in (R10). -/

theorem State.bitTime_idle (h : s.liu.line = .idle) : s.bitTime recessive order = s.sampleIdle recessive order := by
  rw [State.bitTime, h]

theorem State.bitTime_contending (h : s.liu.line = .contending) :
    s.bitTime recessive order = s.sampleReadback recessive order := by
  rw [State.bitTime, h]

theorem State.bitTime_sending (h : s.liu.line = .sending) :
    s.bitTime recessive order = s.sampleReadback recessive order := by
  rw [State.bitTime, h]

theorem State.bitTime_receiving (h : s.liu.line = .receiving) :
    s.bitTime recessive order = s.sampleReceiving recessive order := by
  rw [State.bitTime, h]

theorem State.bitTime_recovering (h : s.liu.line = .recovering) :
    s.bitTime recessive order = s.sampleRecovering recessive := by
  rw [State.bitTime, h]

end

/-- A bit time at the enabled LIU leaves what its effect leaves. -/
theorem State.OnLine.takes {s u v : State} {l : LineState} {recessive : Bool} {order : FrameOrder} (h : s.OnLine l)
    (he : s.bitTime recessive order = v) (hu : v.withoutOutputs = u.withoutOutputs) :
    Takes (.bitTime recessive order) s u :=
  takes_event (takeInput_bitTime recessive order s) h.1 h.2.1 (he ▸ hu)

/-- A bit time at the enabled LIU does what the command does whose effect it has. -/
theorem State.OnLine.takesAs {s : State} {l : LineState} {recessive : Bool} {order : FrameOrder} {c : Instr}
    {reaches : State → Bool} {effect : State → State} (h : s.OnLine l) (hc : exec c s = event reaches effect s)
    (hr : reaches s = true) (he : s.bitTime recessive order = effect s) : TakesAs (.bitTime recessive order) s c :=
  takesAs_event (takeInput_bitTime recessive order s) hc h.1 h.2.1 hr he

/-! ### Recovery and the start of a reception -/

/-- Below the eleventh recessive sample RECOVERING only counts (R3). -/
theorem State.sampleRecovering_counts {s : State} {recessive : Bool} (h : recessive = false ∨ s.liu.idleCount < 10) :
    s.sampleRecovering recessive = s.onLiu (Liu.countSample recessive) := by
  rw [State.sampleRecovering, if_neg]
  rcases h with rfl | h
  · simp [countSample, Config.idleSamples]
  · simp only [countSample, Config.idleSamples]
    split <;> omega

/-- The eleventh recessive sample ends RECOVERING (R3, R10). -/
theorem State.sampleRecovering_ends {s : State} (h : 10 ≤ s.liu.idleCount) :
    s.sampleRecovering true = s.onLiu Liu.becomeIdle := by
  rw [State.sampleRecovering, if_pos]
  simp only [countSample, Config.idleSamples, if_true]
  omega

theorem State.canStage_of_presented_none {s : State} (h : s.txs.presented = none) : s.canStage = false := by
  simp [State.canStage, h]

/-- Settles O20: recovery and the start of a reception, row by row and bit time by bit time. -/
theorem recoveryEndsAndReceptionBegins : Obligations.RecoveryEndsAndReceptionBegins := by
  refine ⟨fun s h => event_leaves (exec_lineIdle s) h.1 h.lineIs rfl,
    fun s h => event_leaves (exec_receptionStart s) h.1 h.lineIdle rfl,
    fun s order h => ⟨?_, fun hn => ?_, fun hn => ?_⟩, fun s order h hp => ⟨?_, ?_⟩, fun s recessive order h => ?_⟩
  · exact h.takes ((State.bitTime_recovering h.2.2).trans (s.sampleRecovering_counts (.inl rfl))) rfl
  · refine h.takes ((State.bitTime_recovering h.2.2).trans (s.sampleRecovering_counts (.inr hn))) ?_
    have hcount : Machine.countSample true s.liu.idleCount = s.liu.idleCount + 1 := by
      simp only [countSample, Config.idleSamples, if_true]
      omega
    rw [State.onLiu, Liu.countSample, hcount]
  · exact h.takesAs (exec_lineIdle s) h.lineIs ((State.bitTime_recovering h.2.2).trans (s.sampleRecovering_ends hn))
  · refine h.takes (State.bitTime_idle h.2.2) ?_
    simp only [State.sampleIdle, State.canStage_of_presented_none hp]
    rfl
  · refine h.takesAs (exec_receptionStart s) h.lineIdle ((State.bitTime_idle h.2.2).trans ?_)
    simp only [State.sampleIdle, State.canStage_of_presented_none hp]
    rfl
  · rw [takeInput_bitTime]
    exact event_ignored h

/-! ### Check errors -/

/-- A frame whose bytes fail a check of R18 is a check error (log entry 7). -/
theorem State.receive_none {s : State} {order : FrameOrder} {contention : BitVec 7} {bytes : List Byte}
    (h : receiveFrame (assembledContention s.liu.assembly.bits contention) (assembledBytes s.liu.assembly bytes) = none) :
    s.receive order contention bytes = s.checkError := by
  rw [State.receive, h]

/-- Settles O21: both rows have the effect of a check error. -/
theorem checkErrorIsCountedAndReported : Obligations.CheckErrorIsCountedAndReported := by
  intro s h u
  refine ⟨event_leaves (exec_checkError s) h.1 h.lineIs rfl, fun order contention bytes hnone => ?_⟩
  refine event_leaves (exec_goodFrame order contention bytes s) h.1 h.lineIs ?_
  rw [State.receive_none hnone]
  rfl

/-! ### Staging -/

/-- A candidate for which a frame can be built is staged in IDLE (R6). -/
theorem State.OnLine.canStage {s : State} (h : s.OnLine .idle) (hs : s.txs.staged = none) {c : Candidate}
    {x : BitVec 2 × FrameBody × StagingRecord} (hp : s.txs.presented = some c) (hb : s.buildFrame c = some x) :
    s.canStage = true := by
  simp [State.canStage, h.lineIdle, hs, hp, hb]

/-- What the staging moment leaves for a candidate whose frame is built (R6, R12, R105). -/
theorem State.stage_eq {s : State} {c : Candidate} {u : BitVec 2} {f : FrameBody} {r : StagingRecord}
    (hp : s.txs.presented = some c) (hb : s.buildFrame c = some (u, f, r)) :
    s.stage = { s with
      liu := { s.liu with line := .contending, staging := some (s.stagedCopy u f), matched := 0, ltxLow := true }
      txs := { s.txs with staged := some r, presented := none } } := by
  rw [State.stage, hp, Option.bind_some, hb]

/-- The contention value as a number (R5). -/
theorem contentionValue_eq (u : BitVec 2) (a : Address) :
    contentionValue u a = BitVec.ofNat 7 (32 * u.toNat + a.toNat) := by
  simp only [contentionValue, ← BitVec.toNat_inj, toNat_append_eq, BitVec.toNat_ofNat]
  omega

/-- CONTENTION_STARTED with a candidate whose frame is built. -/
theorem State.OnLine.contentionStarted_leaves {s : State} (h : s.OnLine .idle) (hs : s.txs.staged = none) {c : Candidate}
    {u : BitVec 2} {f : FrameBody} {r : StagingRecord} (hp : s.txs.presented = some c)
    (hb : s.buildFrame c = some (u, f, r)) :
    Leaves .contentionStarted s
      { s with
        liu := { s.liu with
          line := .contending
          staging := some ⟨BitVec.ofNat 7 (32 * u.toNat + s.control.ownAddr.toNat), frameBytes f⟩
          matched := 0
          ltxLow := true }
        txs := { s.txs with staged := some r } } := by
  refine event_leaves (exec_contentionStarted s) h.1 (h.canStage hs hp hb) ?_
  rw [State.stage_eq hp hb, State.stagedCopy, contentionValue_eq]
  rfl

/-- Settles O23: for each candidate, the frame that is built is the one the statement names. -/
theorem contentionStartedStagesPresentedCandidate : Obligations.ContentionStartedStagesPresentedCandidate := by
  intro s h hs stages own carried
  refine ⟨fun hp => ?_, fun hp => ?_, fun k p hp => ?_, fun h' p m hp hm => ?_, fun h' p m q marked hp hm => ?_,
    fun h' m tag hp hm ht => ?_⟩
  · exact h.contentionStarted_leaves hs hp rfl
  · exact h.contentionStarted_leaves hs hp rfl
  · exact h.contentionStarted_leaves hs hp rfl
  · exact h.contentionStarted_leaves hs hp (by rw [State.buildFrame, hm]; rfl)
  · exact h.contentionStarted_leaves hs hp (by rw [State.buildFrame, hm]; rfl)
  · exact h.contentionStarted_leaves hs hp (by simp only [State.buildFrame, hm, ht])

end Sys2Proof.Machine
end

section
/-! PROOFS. Lost contention and readback faults. -/

namespace Sys2Proof.Machine

/-! ### A frame of this station on the line -/

theorem State.isTransmitting_iff {s : State} :
    s.isTransmitting = true ↔
      s.enabled = true ∧ (s.liu.line = .contending ∨ s.liu.line = .sending) ∧ s.liu.staging.isSome = true := by
  simp only [State.isTransmitting, State.lineIs, Bool.and_eq_true, Bool.or_eq_true, beq_iff_eq, ← and_or_left, and_assoc]

theorem Liu.elements_of_staging {l : Liu} {f : StagedFrame} (h : l.staging = some f) :
    l.elements = frameElements f.contention f.bytes := by
  rw [Liu.elements, h]
  rfl

/-- Where no GROUP slot is staged, none is cancelled (R111). -/
theorem Txs.cancelStagedGroup_none {t : Txs} (h : ∀ h, t.staged ≠ some (.group (some h))) : t.cancelStagedGroup = t := by
  unfold Txs.cancelStagedGroup
  split
  next k hk => exact absurd hk (h k)
  next => rfl

/-- A staged QUEUED GROUP slot completes CANCELLED (R111). -/
theorem Txs.cancelStagedGroup_queued {t : Txs} {h : Handle} {m : Message} (hs : t.staged = some (.group (some h)))
    (hm : t.slot h = .queued m) :
    t.cancelStagedGroup = { t with
      slots := t.slots.set h (.complete m none .cancelled)
      order := t.order.erase h
      completions := t.completions ++ [h] } := by
  have hopen : (t.slot h).isOpen = true := by rw [hm]; rfl
  simp only [Txs.cancelStagedGroup, hs, hm, Slot.isQueued, if_true, t.complete_open .cancelled hopen, Txs.setSlot,
    Slot.completed]

/-- What a failure leaves: the staging record is cleared, and in LEAVING a staged GROUP is cancelled first (R110, R111). -/
theorem State.takeFailure_eq (s : State) :
    s.takeFailure = { s with
      txs := { (if s.control.opState = .leaving then s.txs.cancelStagedGroup else s.txs) with staged := none } } := by
  unfold State.takeFailure
  split <;> rfl

/-! ### Lost contention -/

/-- Contention can be lost at a recessive bit of the staged frame that has not been read back (R7). -/
theorem State.OnLine.canLoseAt {s : State} {bit : Fin 7} {f : StagedFrame} (h : s.OnLine .contending)
    (hf : s.liu.staging = some f) (hbit : f.contention.getLsbD bit.val = true) (hm : s.liu.matched ≤ 7 - bit.val) :
    s.canLoseAt bit = true := by
  simp [State.canLoseAt, h.lineIs, hf, hbit, contentionElement, hm]

theorem Liu.loseContention_eq {l : Liu} {f : StagedFrame} (bit : Fin 7) (h : l.staging = some f) :
    l.loseContention bit =
      { line := .receiving
        idleCount := 0
        staging := none
        matched := 0
        assembly := ⟨(contentionBits f.contention).take (6 - bit.val) ++ [false], [], []⟩
        ltxLow := false } := by
  rw [Liu.loseContention, h]
  rfl

theorem contentionOfBits_contentionBits : ∀ c : BitVec 7, contentionOfBits (contentionBits c) = c := by decide +kernel

/-- A loser whose earlier bits are the winner's assembles the winner's value from the bits it kept and the winner's
remaining bits (R7). -/
theorem assembledContention_keptBits {mine winner : BitVec 7} {bit : Fin 7} (hbit : winner.getLsbD bit.val = false)
    (heq : ∀ j, bit.val < j → mine.getLsbD j = winner.getLsbD j) :
    assembledContention (keptBits mine bit) winner = winner := by
  have hlength : (keptBits mine bit).length = 7 - bit.val := by simp [keptBits]; omega
  have hkept : keptBits mine bit = (contentionBits winner).take (7 - bit.val) := by
    refine List.ext_getElem? fun i => ?_
    rcases lt_trichotomy i (6 - bit.val) with hi | hi | hi
    · rw [keptBits, List.getElem?_append_left (by simp; omega), List.getElem?_take_of_lt hi,
        List.getElem?_take_of_lt (by omega), getElem?_contentionBits _ (by omega), getElem?_contentionBits _ (by omega),
        heq _ (by omega)]
    · rw [List.getElem?_take_of_lt (by omega), getElem?_contentionBits _ (by omega), keptBits,
        List.getElem?_append_right (by simp; omega), show 6 - i = bit.val by omega, hbit, List.length_take,
        contentionBits_length, show i - min (6 - bit.val) 7 = 0 by omega]
      rfl
    · rw [List.getElem?_eq_none (by omega), List.getElem?_eq_none (by simp; omega)]
  rw [assembledContention, hlength, hkept, List.take_append_drop, contentionOfBits_contentionBits]

/-- Against a lower value a sender loses at the highest bit in which the two differ (R5). -/
theorem exists_lost_bit {mine winner : BitVec 7} (h : winner.toNat < mine.toNat) :
    ∃ bit : Fin 7, mine.getLsbD bit.val = true ∧ winner.getLsbD bit.val = false
      ∧ ∀ j, bit.val < j → mine.getLsbD j = winner.getLsbD j := by
  have hne : (mine ^^^ winner).toNat ≠ 0 := by
    rw [BitVec.toNat_xor, Ne, Nat.xor_eq_zero_iff]
    omega
  obtain ⟨i, hi, habove⟩ := Nat.exists_most_significant_bit hne
  have hdiff : (mine.getLsbD i ^^ winner.getLsbD i) = true := by rw [← BitVec.getLsbD_xor]; exact hi
  have heq : ∀ j, i < j → mine.getLsbD j = winner.getLsbD j := fun j hj => by
    have hj : (mine ^^^ winner).getLsbD j = false := habove j hj
    simpa using hj
  have hlt : i < 7 := by
    by_contra hge
    simp [BitVec.getLsbD_of_ge _ _ (Nat.not_lt.1 hge)] at hdiff
  cases hm : mine.getLsbD i with
  | true => exact ⟨⟨i, hlt⟩, hm, by simpa [hm] using hdiff, heq⟩
  | false =>
    have hw : winner.getLsbD i = true := by simpa [hm] using hdiff
    exact absurd (Nat.lt_of_testBit i hm hw fun j hj => heq j hj) (by omega)

/-- Settles O25: what the loser keeps, with and without a GROUP to cancel, and the law of arbitration. -/
theorem lostContentionReturnsToReception : Obligations.LostContentionReturnsToReception := by
  refine ⟨fun s bit f h hf hbit hm => ?_, fun mine winner hlt => ?_⟩
  · intro lost
    have hreach := h.canLoseAt hf hbit hm
    have heffect : s.loseContention bit
        = lost (if s.control.opState = .leaving then s.txs.cancelStagedGroup else s.txs) := by
      rw [State.loseContention, State.takeFailure_eq, State.onLiu, Liu.loseContention_eq bit hf]
      rfl
    have hleaves : ∀ txs, (if s.control.opState = .leaving then s.txs.cancelStagedGroup else s.txs) = txs →
        Leaves (.lostContention bit) s (lost txs) := fun txs htxs =>
      event_leaves (exec_lostContention bit s) h.1 hreach (by rw [heffect, htxs])
    refine ⟨fun hclear => hleaves _ ?_, fun k m hl hs hq => hleaves _ ?_⟩
    · by_cases hl : s.control.opState = .leaving
      · rw [if_pos hl, Txs.cancelStagedGroup_none (hclear.resolve_left (not_not_intro hl))]
      · rw [if_neg hl]
    · rw [if_pos hl, Txs.cancelStagedGroup_queued hs hq]
  · obtain ⟨bit, hm, hw, heq⟩ := exists_lost_bit hlt
    exact ⟨bit, hm, hw, heq, assembledContention_keptBits hw heq⟩

/-! ### Readback faults -/

/-- A fault can fall at an element that has not been read back and that the line can contradict (R8). -/
theorem State.canFault_of {s : State} {element : Nat} {f : StagedFrame} {recessive : Bool} (ht : s.isTransmitting = true)
    (hf : s.liu.staging = some f) (hm : s.liu.matched ≤ element) (hs : s.liu.line = .sending → 8 ≤ element)
    (he : (frameElements f.contention f.bytes)[element]? = some recessive) (hr : 8 ≤ element ∨ recessive = false) :
    s.canFault element = true := by
  have hline := (State.isTransmitting_iff.1 ht).2.1
  have h8 : contendingElements = 8 := rfl
  simp only [State.canFault, ht, hm, canFaultAt, Liu.elements_of_staging hf, he, h8]
  rcases hline with hl | hl
  · simpa [hl] using hr
  · simp [hl, hs hl]

/-- Settles O26: the fault in both orders of its reports. -/
theorem readbackFaultAbortsTheStagedFrame : Obligations.ReadbackFaultAbortsTheStagedFrame := by
  intro s element f hreset ht hf hm hs ⟨recessive, he, hr⟩ faulted abort
  have hreach := State.canFault_of ht hf hm hs he hr
  have habort : ∀ v : State, v.takeFailure = abort v := State.takeFailure_eq
  refine ⟨event_leaves (exec_readbackFault element true s) hreset hreach ?_,
    event_leaves (exec_readbackFault element false s) hreset hreach ?_⟩
  · rw [← habort]
    rfl
  · rw [← habort]
    rfl

end Sys2Proof.Machine
end

section
/-! PROOFS. The staged frame, bit time by bit time. -/

namespace Sys2Proof.Machine

/-! ### IRQn does not act on the part -/

/-- The state with IRQn at another level. -/
def State.withIrq (low : Bool) (s : State) : State := s.onHpt fun t => { t with irqnLow := low }

section
variable (s : State) (low : Bool)

@[simp] theorem State.withIrq_withoutOutputs : (s.withIrq low).withoutOutputs = s.withoutOutputs := rfl

theorem State.withIrq_onControl (f : Control → Control) :
    (s.withIrq low).onControl f = (s.onControl f).withIrq low := rfl

theorem State.withIrq_onPen (f : Pen → Pen) : (s.withIrq low).onPen f = (s.onPen f).withIrq low := rfl

theorem State.withIrq_onHmn (f : Hmn → Hmn) : (s.withIrq low).onHmn f = (s.onHmn f).withIrq low := rfl

theorem State.withIrq_cfg : (s.withIrq low).cfg = s.cfg := rfl

theorem State.withIrq_raise (k : NoticeKind) : (s.withIrq low).raise k = (s.raise k).withIrq low := by
  have hnotice : ({ s.hpt with irqnLow := low } : Hpt).takeNotice ⟨k, s.stamp⟩
      = { s.hpt.takeNotice ⟨k, s.stamp⟩ with irqnLow := low } := by
    by_cases h : s.hpt.notices.length < Config.noticeQueueSize <;> simp [Hpt.takeNotice, h]
  exact congrArg (fun t => { s with hpt := t }) hnotice

theorem State.withIrq_withdrawPeer (p : Station) : (s.withIrq low).withdrawPeer p = (s.withdrawPeer p).withIrq low := by
  have hpeer : (s.withIrq low).peer p = s.peer p := rfl
  simp only [State.withdrawPeer, hpeer]
  split
  · rfl
  · split <;> rfl

theorem State.withIrq_withdrawAll : (s.withIrq low).withdrawAll = s.withdrawAll.withIrq low :=
  List.foldl_hom (State.withIrq low) fun s p => s.withIrq_withdrawPeer low p

theorem State.withIrq_enterDetached : (s.withIrq low).enterDetached = s.enterDetached.withIrq low := by
  simp only [State.enterDetached, State.withIrq_onControl, State.withIrq_withdrawAll, State.withIrq_onPen,
    State.withIrq_onHmn, State.withIrq_cfg, State.withIrq_raise]

theorem State.withIrq_evaluateLevel : (s.withIrq low).evaluateLevel = s.evaluateLevel.withIrq low := by
  have hhmn : (s.withIrq low).hmn = s.hmn := rfl
  simp only [State.evaluateLevel, hhmn]
  cases levelStep s.hmn.level s.hmn.score with
  | keep => rfl
  | toGuarded => simp only [State.withIrq_onHmn, State.withIrq_raise]
  | toSound => simp only [State.withIrq_onHmn, State.withIrq_raise]
  | toDetached => exact State.withIrq_enterDetached s low

theorem State.withIrq_healthReport (r : HealthReport) :
    (s.withIrq low).healthReport r = (s.healthReport r).withIrq low := by
  have hguard : ((s.withIrq low).isRunning && scoreAfter r (s.withIrq low).hmn.score != (s.withIrq low).hmn.score)
      = (s.isRunning && scoreAfter r s.hmn.score != s.hmn.score) := rfl
  unfold State.healthReport
  rw [hguard]
  split
  · rw [State.withIrq_onHmn, State.withIrq_evaluateLevel]
  · rfl

theorem State.withIrq_takeFailure : (s.withIrq low).takeFailure = s.takeFailure.withIrq low := by
  rw [State.takeFailure_eq, State.takeFailure_eq]
  rfl

theorem State.withIrq_readbackFault (element : Nat) (scoreFirst : Bool) :
    (s.withIrq low).readbackFault element scoreFirst = (s.readbackFault element scoreFirst).withIrq low := by
  have hline : ((s.withIrq low).onLiu (Liu.fault element)).count .readbackFaults
      = ((s.onLiu (Liu.fault element)).count .readbackFaults).withIrq low := rfl
  simp only [State.readbackFault, hline, State.withIrq_takeFailure, State.withIrq_healthReport]
  exact (apply_ite (State.withIrq low) _ _ _).symm

end

/-! ### Reading back the elements of a staged frame -/

theorem State.bitTime_transmitting {s : State} {recessive : Bool} {order : FrameOrder} (h : s.isTransmitting = true) :
    s.bitTime recessive order = s.sampleReadback recessive order := by
  rcases (State.isTransmitting_iff.1 h).2.1 with hl | hl
  · exact State.bitTime_contending hl
  · exact State.bitTime_sending hl

/-- A contention bit sent recessive and read dominant is lost (R7). -/
theorem State.sampleReadback_lost {s : State} {order : FrameOrder} (h : s.liu.elements[s.liu.matched]? = some true)
    (hl : s.liu.line = .contending) :
    s.sampleReadback false order = s.loseContention (Fin.ofNat 7 (7 - s.liu.matched)) := by
  simp [State.sampleReadback, h, hl]

/-- Any other difference is a readback fault (R8). -/
theorem State.sampleReadback_fault {s : State} {recessive sent : Bool} {order : FrameOrder}
    (h : s.liu.elements[s.liu.matched]? = some sent) (hne : recessive ≠ sent)
    (hl : ¬(s.liu.line = .contending ∧ sent = true)) :
    s.sampleReadback recessive order = s.readbackFault s.liu.matched order.scoreFirst := by
  simp only [State.sampleReadback, h, hne, hl, if_false]

theorem FrameOrder.not_scoreFirst (order : FrameOrder) : (!order.scoreFirst) = (order == .idleBeforeScore) := by
  cases order <;> rfl

theorem FrameOrder.scoreFirst_eq (order : FrameOrder) : order.scoreFirst = (order != .idleBeforeScore) := by
  cases order <;> rfl

/-- While a frame is on the line there is no contention opportunity (R98). -/
theorem State.finish_of_not_lineIdle {s : State} (h : s.lineIdle = false) : s.finish = s.withIrq s.irqCause := by
  rw [State.finish, State.contentionOpportunity, h]
  rfl

theorem State.stage_inReset (s : State) : s.stage.inReset = s.inReset := by
  rcases s.stage_cases with h | ⟨c, u, f, r, -, -, h⟩ <;> rw [h]

/-- After the staging the start element of a frame is being driven (R6). -/
theorem State.stage_line {s : State} (h : s.canStage = true) :
    s.stage.isTransmitting = true ∧ s.stage.liu.line = .contending ∧ s.stage.liu.matched = 0
      ∧ s.stage.liu.elements[0]? = some false ∧ 1 < s.stage.liu.elements.length := by
  simp only [State.canStage, State.lineIdle, Bool.and_eq_true, Option.isSome_iff_exists, Option.bind_eq_some_iff] at h
  obtain ⟨⟨⟨henabled, -⟩, -⟩, ⟨u, f, r⟩, c, hp, hb⟩ := h
  rw [State.stage_eq hp hb]
  have helements : Liu.elements { s.liu with
      line := .contending, staging := some (s.stagedCopy u f), matched := 0, ltxLow := true } = _ :=
    Liu.elements_of_staging rfl
  refine ⟨State.isTransmitting_iff.2 ⟨henabled, .inl rfl, rfl⟩, rfl, rfl, ?_, ?_⟩
  · rw [helements]
    rfl
  · rw [helements, frameElements_length]
    omega

/-- What CONTENTION_STARTED leaves where it does enter CONTENDING: the staged state, with IRQn as it follows. -/
theorem contentionStarted_next {s v : State} (h : s.OnLine .idle) (hv : exec .contentionStarted s = .next v)
    (hl : v.liu.line = .contending) : s.canStage = true ∧ ∃ low, v = s.stage.withIrq low := by
  rcases event_cases ((exec_contentionStarted s).symm.trans hv) with ⟨-, hc, rfl⟩ | ⟨-, rfl⟩
  · have hidle : s.stage.lineIdle = false := by simp [State.lineIdle, (State.stage_line hc).2.1]
    exact ⟨hc, _, State.finish_of_not_lineIdle hidle⟩
  · rw [h.2.2] at hl
    cases hl

/-- Settles O27: match, end, loss and fault, and the element read back when the staging opens the bit time. -/
theorem bitTimesDriveTheStagedFrame : Obligations.BitTimesDriveTheStagedFrame := by
  refine ⟨fun s recessive order f sent hreset ht hf hsent => ?_, fun s v recessive order h hv hl => ?_⟩
  · intro elements n
    obtain ⟨henabled, hline, -⟩ := State.isTransmitting_iff.1 ht
    have helements : s.liu.elements = elements := Liu.elements_of_staging hf
    have hsent' : s.liu.elements[s.liu.matched]? = some sent := helements ▸ hsent
    have htakes := takeInput_bitTime recessive order s
    refine ⟨fun hr hn => ?_, fun hr hn => ?_, fun hr hs hc bit hbit => ?_, fun hr hs => ?_⟩
    · refine takes_event htakes hreset henabled ?_
      rw [State.bitTime_transmitting ht, State.sampleReadback_match (hr ▸ hsent') (helements ▸ hn), ← helements]
      rfl
    · refine takesAs_event htakes (exec_sentOk _ s) hreset henabled ht ?_
      rw [State.bitTime_transmitting ht, State.sampleReadback_last (hr ▸ hsent') (helements ▸ hn.not_lt),
        FrameOrder.not_scoreFirst]
    · subst hr hs
      have hkept : f.contention.getLsbD bit.val = true := by
        have helement := getElem?_frameElements_contention f.contention f.bytes (i := 6 - bit.val) (by omega)
        rw [show 1 + (6 - bit.val) = s.liu.matched by omega, hsent, show 6 - (6 - bit.val) = bit.val by omega] at helement
        exact (Option.some.inj helement).symm
      have hreach := State.OnLine.canLoseAt ⟨hreset, henabled, hc⟩ hf hkept (by omega)
      refine takesAs_event htakes (exec_lostContention bit s) hreset henabled hreach ?_
      have hbit' : Fin.ofNat 7 (7 - s.liu.matched) = bit := Fin.ext (by simp only [Fin.val_ofNat]; omega)
      rw [State.bitTime_transmitting ht, State.sampleReadback_lost hsent' hc, hbit']
    · have hfault : ¬(s.liu.line = .contending ∧ sent = true) := by
        rintro ⟨hc, ht⟩
        rcases hs with ⟨-, hf⟩ | ⟨hl, -⟩
        · rw [ht] at hf
          cases hf
        · rw [hc] at hl
          cases hl
      have hreach := State.canFault_of ht hf (le_refl _) (fun hl => ?_) hsent ?_
      · refine takesAs_event htakes (exec_readbackFault n _ s) hreset henabled hreach ?_
        rw [State.bitTime_transmitting ht, State.sampleReadback_fault hsent' hr hfault, FrameOrder.scoreFirst_eq]
      · rcases hs with ⟨hc, -⟩ | ⟨-, h8⟩
        · rw [hc] at hl
          cases hl
        · exact h8
      · exact hs.symm.imp And.right And.right
  · obtain ⟨hc, low, rfl⟩ := contentionStarted_next h hv hl
    obtain ⟨htransmits, hline, hmatched, hstart, hlength⟩ := State.stage_line hc
    have hsample : s.bitTime recessive order = s.stage.sampleReadback recessive order := by
      rw [State.bitTime_idle h.2.2, State.sampleIdle, if_pos hc]
    refine ⟨fun hr => ?_, fun hr u ⟨t, ht, hu⟩ => ?_⟩
    · subst hr
      refine h.takes (hsample.trans (State.sampleReadback_match (by rwa [hmatched]) (by omega))) ?_
      have hliu : (s.stage.liu.matchTo (s.stage.liu.matched + 1)).countSample false
          = { s.stage.liu with matched := 1, ltxLow := s.stage.liu.elements[1]? == some false, idleCount := 0 } := by
        rw [hmatched]
        rfl
      rw [State.onLiu, hliu]
      rfl
    · subst hr
      have hreach : (s.stage.withIrq low).canFault 0 = true := by
        have hfault : s.stage.canFault 0 = true := by simp [State.canFault, canFaultAt, htransmits, hmatched, hline, hstart]
        exact hfault
      have hsent : s.stage.sampleReadback true order = s.stage.readbackFault 0 (order != .idleBeforeScore) := by
        rw [State.sampleReadback_fault (by rwa [hmatched]) (by decide) (by simp), hmatched, FrameOrder.scoreFirst_eq]
      refine h.takes (hsample.trans hsent) ?_
      rcases event_cases ((exec_readbackFault 0 _ _).symm.trans ht) with ⟨-, -, rfl⟩ | ⟨hno, -⟩
      · rw [← hu, State.finish_withoutOutputs, State.withIrq_readbackFault, State.withIrq_withoutOutputs]
      · have hreset : (s.stage.withIrq low).inReset = false := s.stage_inReset.trans h.1
        rcases hno with hno | hno
        · rw [hreset] at hno
          cases hno
        · rw [hreach] at hno
          cases hno

end Sys2Proof.Machine
end

section
/-! PROOFS. What the line sees of a state, and the operations that leave it: one lemma for each. -/

namespace Sys2Proof.Machine

/-! ### What the line interface unit, and whoever waits, sees of the state -/

/-- The fields that the laws of the line and of the queues look at. Sessions, credit, the store, health and the port act on
none of them. -/
structure LineView where
  enabled : Bool
  liu : Liu
  staged : Option StagingRecord
  presented : Option Candidate
  pending : List Instr
  inputs : List Input

/-- The view of a state. -/
def State.lineView (s : State) : LineView where
  enabled := s.enabled
  liu := s.liu
  staged := s.txs.staged
  presented := s.txs.presented
  pending := s.pending
  inputs := s.inputs

section
variable {s t : State} (h : t.lineView = s.lineView)
include h

theorem State.enabled_of_lineView : t.enabled = s.enabled := congrArg LineView.enabled h
theorem State.liu_of_lineView : t.liu = s.liu := congrArg LineView.liu h
theorem State.staged_of_lineView : t.txs.staged = s.txs.staged := congrArg LineView.staged h
theorem State.presented_of_lineView : t.txs.presented = s.txs.presented := congrArg LineView.presented h
theorem State.pending_of_lineView : t.pending = s.pending := congrArg LineView.pending h
theorem State.inputs_of_lineView : t.inputs = s.inputs := congrArg LineView.inputs h

end

section
variable (s : State)

/-! ### Updates of one block -/

@[simp] theorem State.lineView_onPen (f : Pen → Pen) : (s.onPen f).lineView = s.lineView := rfl
@[simp] theorem State.lineView_onPeer (p : Station) (f : PeerEntry → PeerEntry) :
    (s.onPeer p f).lineView = s.lineView := rfl
@[simp] theorem State.lineView_onMst (f : Mst → Mst) : (s.onMst f).lineView = s.lineView := rfl
@[simp] theorem State.lineView_onHmn (f : Hmn → Hmn) : (s.onHmn f).lineView = s.lineView := rfl
@[simp] theorem State.lineView_onHpt (f : Hpt → Hpt) : (s.onHpt f).lineView = s.lineView := rfl
@[simp] theorem State.lineView_count (c : CounterName) : (s.count c).lineView = s.lineView := rfl
@[simp] theorem State.lineView_raise (k : NoticeKind) : (s.raise k).lineView = s.lineView := rfl
@[simp] theorem State.lineView_stale : s.stale.lineView = s.lineView := rfl

/-- An update of TXS that leaves the staging record and the presented candidate. -/
theorem State.lineView_onTxs {f : Txs → Txs} (h1 : (f s.txs).staged = s.txs.staged)
    (h2 : (f s.txs).presented = s.txs.presented) : (s.onTxs f).lineView = s.lineView := by
  simp only [State.lineView, State.onTxs_txs, h1, h2]
  rfl

/-- An update of the control section that leaves the LIU enabled or disabled. -/
theorem State.lineView_onControl {f : Control → Control} (h : (f s.control).opState.enabled = s.control.opState.enabled) :
    (s.onControl f).lineView = s.lineView := by
  have henabled : (s.onControl f).enabled = s.enabled := h
  simp only [State.lineView, henabled]
  rfl

/-! ### Transmit slots -/

@[simp] theorem Txs.completeAll_staged (o : SlotOutcome) (hs : List Handle) (t : Txs) :
    (t.completeAll o hs).staged = t.staged := by
  induction hs generalizing t with
  | nil => rfl
  | cons h hs ih => exact (ih _).trans (t.complete_staged h o)

@[simp] theorem Txs.completeAll_presented (o : SlotOutcome) (hs : List Handle) (t : Txs) :
    (t.completeAll o hs).presented = t.presented := by
  induction hs generalizing t with
  | nil => rfl
  | cons h hs ih => exact (ih _).trans (t.complete_presented h o)

@[simp] theorem State.lineView_voidSession (p : Station) (q : Seq) :
    (s.onTxs (Txs.voidSession p q)).lineView = s.lineView :=
  s.lineView_onTxs (by simp [Txs.voidSession]) (by simp [Txs.voidSession])

@[simp] theorem State.lineView_endSession (p : Station) (q : Seq) :
    (s.onTxs (Txs.endSession p q)).lineView = s.lineView :=
  s.lineView_onTxs (by simp [Txs.endSession, Txs.voidSession]) (by simp [Txs.endSession, Txs.voidSession])

@[simp] theorem State.lineView_complete (o : SlotOutcome) (h : Handle) :
    (s.onTxs (Txs.complete o h)).lineView = s.lineView :=
  s.lineView_onTxs (by simp) (by simp)

@[simp] theorem State.lineView_place (h : Handle) (m : Message) : (s.onTxs (Txs.place h m)).lineView = s.lineView := rfl

@[simp] theorem State.lineView_markSent (p : Station) : (s.onTxs (Txs.markSent p)).lineView = s.lineView := by
  have hmark : ∀ (hs : List Handle) (t : Txs),
      (hs.foldl (fun t h => t.setSlot h ((t.slot h).withMark true)) t).staged = t.staged
        ∧ (hs.foldl (fun t h => t.setSlot h ((t.slot h).withMark true)) t).presented = t.presented := fun hs => by
    induction hs with
    | nil => exact fun t => ⟨rfl, rfl⟩
    | cons h hs ih => exact fun t => ih _
  exact s.lineView_onTxs (hmark _ _).1 (hmark _ _).2

@[simp] theorem State.lineView_cancelStagedGroup : (s.onTxs Txs.cancelStagedGroup).lineView = s.lineView := by
  have hcancel : ∀ t : Txs, t.cancelStagedGroup.staged = t.staged ∧ t.cancelStagedGroup.presented = t.presented := by
    intro t
    unfold Txs.cancelStagedGroup
    split
    · split <;> simp
    · exact ⟨rfl, rfl⟩
  exact s.lineView_onTxs (hcancel _).1 (hcancel _).2

@[simp] theorem State.lineView_sendStagedGroup (h : Option Handle) :
    (s.onTxs (Txs.sendStagedGroup h)).lineView = s.lineView := by
  have hsend : ∀ t : Txs, (t.sendStagedGroup h).staged = t.staged ∧ (t.sendStagedGroup h).presented = t.presented := by
    intro t
    unfold Txs.sendStagedGroup
    split
    · exact ⟨rfl, rfl⟩
    · split <;> simp
  exact s.lineView_onTxs (hsend _).1 (hsend _).2

/-! ### Sessions, credit and the store -/

@[simp] theorem State.lineView_grantAttempt : s.grantAttempt.lineView = s.lineView := by
  rw [State.grantAttempt_frame]
  rfl

@[simp] theorem State.lineView_sessionRestart (p : Station) : (s.sessionRestart p).lineView = s.lineView := by
  simp [State.sessionRestart]

@[simp] theorem State.lineView_sessionEnd (p : Station) (st : AssocState) (e : Epoch) :
    (s.sessionEnd p st e).lineView = s.lineView := by
  simp [State.sessionEnd]

@[simp] theorem State.lineView_losePeer (p : Station) (c : LossCause) : (s.losePeer p c).lineView = s.lineView := by
  simp [State.losePeer]

@[simp] theorem State.lineView_withdrawPeer (p : Station) : (s.withdrawPeer p).lineView = s.lineView := by
  rcases s.withdrawPeer_cases p with ⟨-, h⟩ | ⟨-, h⟩ | ⟨-, -, h⟩ <;> simp [h]

@[simp] theorem State.lineView_withdrawAll : s.withdrawAll.lineView = s.lineView := by
  have hfold : ∀ (ps : List Station) (t : State), (ps.foldl State.withdrawPeer t).lineView = t.lineView := fun ps => by
    induction ps with
    | nil => exact fun t => rfl
    | cons p ps ih => exact fun t => (ih _).trans (t.lineView_withdrawPeer p)
  exact hfold _ s

@[simp] theorem State.lineView_restartNoticed (p : Station) : (s.restartNoticed p).lineView = s.lineView := by
  unfold State.restartNoticed
  split <;> simp

@[simp] theorem State.lineView_resynchronise (p : Station) (e : Epoch) : (s.resynchronise p e).lineView = s.lineView := by
  simp only [State.resynchronise, State.lineView_grantAttempt, State.lineView_onPeer]
  split <;> simp

@[simp] theorem State.lineView_refresh (p : Station) : (s.refresh p).lineView = s.lineView := rfl

@[simp] theorem State.lineView_refreshIfMatching (p : Station) (e : Epoch) :
    (s.refreshIfMatching p e).lineView = s.lineView := by
  unfold State.refreshIfMatching
  split <;> simp

@[simp] theorem State.lineView_leavingHelloReceived (p : Station) : (s.leavingHelloReceived p).lineView = s.lineView := by
  unfold State.leavingHelloReceived
  split <;> simp

@[simp] theorem State.lineView_helloReceived (p : Station) (e : Epoch) :
    (s.helloReceived p e).lineView = s.lineView := by
  unfold State.helloReceived
  split
  case h_3 => split <;> simp
  case h_4 => split <;> simp
  all_goals simp

@[simp] theorem State.lineView_openReceived (p : Station) (se de : Epoch) (l : Seq) :
    (s.openReceived p se de l).lineView = s.lineView := by
  unfold State.openReceived State.openLink
  split
  · split <;> simp
  · simp

@[simp] theorem State.lineView_takeAck (p : Station) (a : Seq) : (s.takeAck p a).lineView = s.lineView := by
  simp only [State.takeAck]
  split
  · rfl
  · have hack := s.lineView_onTxs (f := Txs.completeAll .delivered
      (s.txs.sentInSequence p (s.peer p).oldestUnacked (a - (s.peer p).oldestUnacked).toNat)) (by simp) (by simp)
    exact hack

/-- Ack and limit processing acts on slots and the peer's entry only (R49). -/
theorem State.lineView_takeAckLimit {p : Station} {a l : Seq} {t : State} (h : s.takeAckLimit p a l = some t) :
    t.lineView = s.lineView := by
  unfold State.takeAckLimit at h
  split at h
  · cases h
    simp
  · cases h

@[simp] theorem State.lineView_acceptReceived (p : Station) (se de : Epoch) (a l : Seq) :
    (s.acceptReceived p se de a l).lineView = s.lineView := by
  unfold State.acceptReceived State.acceptLink
  split
  · split
    · simp
    next t h => split <;> simp [s.lineView_takeAckLimit h]
  · simp

@[simp] theorem State.lineView_creditReceived (p : Station) (se de : Epoch) (a l : Seq) :
    (s.creditReceived p se de a l).lineView = s.lineView := by
  unfold State.creditReceived
  split
  · split
    · simp
    next t h => exact s.lineView_takeAckLimit h
  · simp

@[simp] theorem State.lineView_takeSeq (p : Station) (q : Seq) (b : List Byte) :
    (s.takeSeq p q b).lineView = s.lineView := by
  unfold State.takeSeq
  split <;> simp

@[simp] theorem State.lineView_dataReceived (p : Station) (se de : Epoch) (q a l : Seq) (b : List Byte) :
    (s.dataReceived p se de q a l b).lineView = s.lineView := by
  unfold State.dataReceived
  split
  · split
    · simp
    next t h => simp [s.lineView_takeAckLimit h]
  · simp

@[simp] theorem State.lineView_controlReceived (p : Station) (k : ControlKind) (se de : Epoch) (a l : Seq) :
    (s.controlReceived p k se de a l).lineView = s.lineView := by
  unfold State.controlReceived
  split
  · simp
  · cases k <;> simp

@[simp] theorem State.lineView_overheard (p : Station) (e : Epoch) : (s.overheard p e).lineView = s.lineView := by
  unfold State.overheard
  split <;> simp

@[simp] theorem State.lineView_groupReceived (p : Station) (tag : Byte) (b : List Byte) :
    (s.groupReceived p tag b).lineView = s.lineView := by
  unfold State.groupReceived
  split
  · simp
  · split <;> simp

/-- Whatever a frame record does, it does to sessions, slots and the store (R21). -/
@[simp] theorem State.lineView_routeFrame (p : Station) (f : FrameBody) : (s.routeFrame p f).lineView = s.lineView := by
  cases f with
  | hello epoch leaving =>
    simp only [State.routeFrame]
    split
    · simp
    · split <;> simp
  | control k dest se de a l =>
    simp only [State.routeFrame]
    split <;> simp
  | data dest se de q a l payload =>
    simp only [State.routeFrame]
    split
    · split <;> simp
    · simp
  | group tag payload => simp [State.routeFrame]

@[simp] theorem State.lineView_takeRecord (a : Address) (f : FrameBody) : (s.takeRecord a f).lineView = s.lineView := by
  unfold State.takeRecord
  split
  · split <;> simp
  · rfl

@[simp] theorem State.lineView_releaseMessage : s.releaseMessage.lineView = s.lineView := by
  unfold State.releaseMessage
  split <;> simp

/-! ### Health -/

/-- Entry into DETACHED leaves the LIU enabled, with the frame it may have on the line (R11, R133, R134). -/
theorem State.lineView_enterDetached {s : State} (h : s.isRunning = true) : s.enterDetached.lineView = s.lineView := by
  have hrunning : s.control.opState = .running := by simpa [State.isRunning] using h
  simp only [State.enterDetached, State.lineView_raise, State.lineView_onHmn, State.lineView_onPen,
    State.lineView_withdrawAll]
  exact s.lineView_onControl (by rw [hrunning]; rfl)

@[simp] theorem State.lineView_healthReport (r : HealthReport) : (s.healthReport r).lineView = s.lineView := by
  rcases s.healthReport_cases r with h | ⟨hrunning, scored, rfl, h | h | h | ⟨-, h⟩⟩
  · rw [h]
  · rw [h, State.lineView_onHmn]
  · rw [h, State.lineView_raise, State.lineView_onHmn, State.lineView_onHmn]
  · rw [h, State.lineView_raise, State.lineView_onHmn, State.lineView_onHmn]
  · rw [h]
    exact State.lineView_enterDetached (s := s.onHmn _) hrunning

@[simp] theorem State.lineView_reportClash : s.reportClash.lineView = s.lineView := by
  unfold State.reportClash
  split <;> simp

@[simp] theorem State.lineView_startHello : s.startHello.lineView = s.lineView := rfl

/-- The rejoin leaves the LIU enabled (R11, R137). -/
theorem State.lineView_rejoin {s : State} (h : s.control.opState = .detached) : s.rejoin.lineView = s.lineView := by
  simp only [State.rejoin, State.lineView_raise, State.lineView_startHello, State.lineView_onHmn]
  exact s.lineView_onControl (by rw [h]; rfl)

/-! ### Time -/

@[simp] theorem State.lineView_tick : s.tick.lineView = s.lineView := rfl

@[simp] theorem State.lineView_joinExpiry (p : Station) : (s.joinExpiry p).lineView = s.lineView := by
  unfold State.joinExpiry
  split <;> simp

@[simp] theorem State.lineView_ackExpiry (p : Station) : (s.ackExpiry p).lineView = s.lineView := by
  unfold State.ackExpiry
  split <;> simp

@[simp] theorem State.lineView_ackDelayExpiry (p : Station) : (s.ackDelayExpiry p).lineView = s.lineView := rfl

/-! ### The outcomes of a staged frame -/

theorem State.lineView_clearStaged {s t : State} (h : t.lineView = s.lineView) :
    t.clearStaged.lineView = s.clearStaged.lineView :=
  congrArg (fun v : LineView => { v with staged := none }) h

/-- After a failure the staging record is cleared, and nothing else of the view changes (R110). -/
theorem State.lineView_takeFailure : s.takeFailure.lineView = s.clearStaged.lineView := by
  unfold State.takeFailure
  split
  · exact State.lineView_clearStaged s.lineView_cancelStagedGroup
  · rfl

@[simp] theorem State.lineView_firstSendOk (h : Option Handle) (p : Station) (q : Seq) (c : Carried) :
    (s.firstSendOk h p q c).lineView = s.lineView := by
  simp only [State.firstSendOk, State.carry, State.lineView_onPeer]
  split
  · rfl
  · split <;> rfl

@[simp] theorem State.lineView_resendOk (h : Option Handle) (p : Station) (q : Seq) (c : Carried) :
    (s.resendOk h p q c).lineView = s.lineView := by
  simp only [State.resendOk, State.carry, State.lineView_onPeer]
  split
  · rfl
  · split <;> rfl

@[simp] theorem State.lineView_helloOk (e : Epoch) : (s.helloOk e).lineView = s.lineView := by
  unfold State.helloOk
  split <;> simp

@[simp] theorem State.lineView_controlOk (k : ControlKind) (p : Station) (c : Carried) :
    (s.controlOk k p c).lineView = s.lineView := rfl

end

/-- What TXS does at SENT_OK: it clears the staging record, or the LEAVING HELLO ends LEAVING (R109, R152). -/
theorem State.takeSentOk_cases (s : State) :
    s.takeSentOk.lineView = s.clearStaged.lineView
      ∨ s.control.opState = .leaving ∧ s.takeSentOk = s.endLeaving false := by
  unfold State.takeSentOk
  split
  next h =>
    refine .inl ?_
    rw [State.clearStaged, State.onTxs, ← h]
  · exact .inl (State.lineView_clearStaged (by simp))
  · split
    next h => exact .inr ⟨h, rfl⟩
    next => exact .inl rfl
  all_goals exact .inl (State.lineView_clearStaged (by simp))

end Sys2Proof.Machine
end

section
/-! PROOFS. What an event can do to the line, said once for every command and every input. -/

namespace Sys2Proof.Machine

/-! ### The port -/

section
variable (s : State)

@[simp] theorem State.lineView_startTransaction : s.startTransaction.lineView = s.lineView := rfl
@[simp] theorem State.lineView_closePort (aborted : Bool) : (s.closePort aborted).lineView = s.lineView := rfl
@[simp] theorem State.lineView_withBits (bits : List Bool) : (s.withBits bits).lineView = s.lineView := rfl
@[simp] theorem State.lineView_withHeld (held : Option Bool) : (s.withHeld held).lineView = s.lineView := rfl
@[simp] theorem State.lineView_clockFall : s.clockFall.lineView = s.lineView := rfl

/-- The end of a transaction may release the slot that the staging record names (R97, R165). -/
theorem State.lineView_endTransaction :
    s.endTransaction.lineView = s.lineView
      ∨ ∃ h, s.endTransaction.lineView
          = { s.lineView with staged := s.txs.staged.map (StagingRecord.forget h) } := by
  have hrelease : ∀ t : State, (t.onTxs Txs.releaseHead).lineView = t.lineView
      ∨ ∃ h, (t.onTxs Txs.releaseHead).lineView
          = { t.lineView with staged := t.txs.staged.map (StagingRecord.forget h) } := fun t => by
    simp only [State.onTxs, Txs.releaseHead]
    split
    · exact .inl rfl
    · exact .inr ⟨_, rfl⟩
  have heffect : ∀ t : State, t.endEffect.lineView = t.lineView
      ∨ ∃ h, t.endEffect.lineView = { t.lineView with staged := t.txs.staged.map (StagingRecord.forget h) } := fun t => by
    simp only [State.endEffect]
    split
    · exact .inl t.lineView_releaseMessage
    split
    · exact hrelease t
    split
    · exact .inl rfl
    split
    · exact .inl rfl
    split
    · exact .inl rfl
    · exact .inl rfl
  exact heffect _

/-- LEAVE leaves the LIU enabled, with the frame it may have on the line (R11, R150). -/
theorem State.lineView_beginLeaving (h : s.control.opState.takesMessages = true) :
    s.beginLeaving.lineView = s.lineView := by
  have henabled : s.control.opState.enabled = true := by
    revert h
    cases s.control.opState <;> decide
  have hleaving : ((s.onHmn fun m => { m with holdoff := 0 }).onControl fun k => { k with opState := .leaving }).lineView
      = s.lineView := State.lineView_onControl (s.onHmn _) henabled.symm
  simp only [State.beginLeaving]
  rw [State.lineView_onControl, State.lineView_onPen, State.lineView_withdrawAll, State.lineView_onTxs, hleaving]
  all_goals simp

/-- The port leaves of the line what a view says: nothing changes, START is accepted, or RESET is. -/
def State.PortLeaves (s : State) (v : LineView) : Prop :=
  v = s.lineView ∨ s.control.opState = .ready ∧ v = s.startRun.lineView ∨ v = s.softReset.lineView

/-- What a judgement leaves of the line (R146, R148, R150, R154). -/
theorem State.portLeaves_judgementOf (c : HostCommand) (params : List Byte) :
    s.PortLeaves (judgementOf c params s).1.lineView := by
  cases c with
  | configure =>
    refine .inl ?_
    simp only [judgementOf, judgeConfigure]
    split
    next h =>
      split
      · rfl
      · exact s.lineView_onControl (by rw [h]; rfl)
    · rfl
  | start =>
    simp only [judgementOf, judgeStart]
    split
    next h => exact .inr (.inl ⟨h, rfl⟩)
    next => exact .inl rfl
  | leave =>
    refine .inl ?_
    simp only [judgementOf, judgeLeave]
    split
    next h =>
      exact s.lineView_beginLeaving h
    next => rfl
  | reset => exact .inr (.inr rfl)
  | submit =>
    refine .inl ?_
    simp only [judgementOf, judgeSubmit]
    split <;> rfl
  | cancel =>
    refine .inl ?_
    simp only [judgementOf, judgeCancel]
    split
    · rfl
    · split <;> simp
  | readMessage =>
    refine .inl ?_
    simp only [judgementOf, judgeReadMessage]
    split <;> rfl
  | readCompletion =>
    refine .inl ?_
    simp only [judgementOf, judgeReadCompletion]
    split <;> rfl
  | readNotice =>
    refine .inl ?_
    simp only [judgementOf, judgeReadNotice]
    split <;> rfl
  | readPeer =>
    refine .inl ?_
    simp only [judgementOf, judgeReadPeer]
    split <;> rfl
  | readStatus => exact .inl rfl
  | readCounters => exact .inl rfl
  | unknown => exact .inl rfl

theorem State.portLeaves_runCommand (c : HostCommand) (params : List Byte) :
    s.PortLeaves (s.runCommand c params (judgementOf c)).lineView := by
  simp only [State.runCommand]
  split
  · exact .inl rfl
  · exact s.portLeaves_judgementOf c _

theorem State.portLeaves_clockByte (byte : Byte) : s.PortLeaves (s.clockByte byte).lineView := by
  have hparams : ∀ c params, s.PortLeaves (s.takeParams c params).lineView := fun c params => by
    unfold State.takeParams
    split
    · exact .inl rfl
    · exact s.portLeaves_judgementOf c params
  unfold State.clockByte
  split
  · exact hparams _ _
  · split
    · exact .inl rfl
    · exact hparams _ _
  all_goals exact .inl rfl

theorem State.portLeaves_clockRise (mosi : Bool) : s.PortLeaves (s.clockRise mosi).lineView := by
  simp only [State.clockRise, State.lineView_withHeld]
  split
  · exact .inl rfl
  · exact (s.withBits []).portLeaves_clockByte _

end

/-! ### What an event does to the line -/

/-- What an event does to the line and to whoever waits: one case for each way in which an effect can change the view. -/
inductive LineEffect : State → State → Prop
  | none {s u : State} (h : u.lineView = s.lineView) : LineEffect s u
  | release {s u : State} (h : Handle)
      (hu : u.lineView = { s.lineView with staged := s.txs.staged.map (StagingRecord.forget h) }) : LineEffect s u
  | startRun {s u : State} (h : s.control.opState = .ready) (hu : u.lineView = s.startRun.lineView) : LineEffect s u
  | softReset {s u : State} (hu : u.lineView = s.softReset.lineView) : LineEffect s u
  | endLeaving {s : State} (timedOut : Bool) : LineEffect s (s.endLeaving timedOut)
  | becomeIdle {s : State} (h : s.lineIs .recovering = true) : LineEffect s (s.onLiu Liu.becomeIdle)
  | count {s : State} (recessive : Bool)
      (h : s.lineIs .idle = true ∧ recessive = true
        ∨ s.lineIs .recovering = true ∧ countSample recessive s.liu.idleCount ≠ 11) :
      LineEffect s (s.onLiu (Liu.countSample recessive))
  | beginReception {s : State} (h : s.lineIs .idle = true) : LineEffect s (s.onLiu Liu.beginReception)
  | assemble {s : State} (recessive : Bool) {a : Assembly} (h : s.lineIs .receiving = true)
      (ha : s.liu.assembly.take recessive = .continues a) :
      LineEffect s (s.onLiu fun l => { l.countSample recessive with assembly := a })
  | checkError {s : State} (h : s.lineIs .receiving = true) : LineEffect s s.checkError
  | receive {s : State} (order : FrameOrder) (contention : BitVec 7) (bytes : List Byte)
      (h : s.lineIs .receiving = true) : LineEffect s (s.receive order contention bytes)
  | stage {s u : State} (h : s.canStage = true) (hu : LineEffect s.stage u) : LineEffect s u
  | advance {s : State} (recessive : Bool) (h : s.isTransmitting = true)
      (hn : s.liu.matched + 1 < s.liu.elements.length) :
      LineEffect s (s.onLiu fun l => (l.matchTo (l.matched + 1)).countSample recessive)
  | sentOk {s : State} (stagingFirst : Bool) (h : s.isTransmitting = true) : LineEffect s (s.sentOk stagingFirst)
  | loseContention {s : State} (bit : Fin 7) (h : s.isTransmitting = true) : LineEffect s (s.loseContention bit)
  | readbackFault {s : State} (element : Nat) (scoreFirst : Bool) (h : s.isTransmitting = true) :
      LineEffect s (s.readbackFault element scoreFirst)

theorem LineEffect.of_portLeaves {s u : State} (h : s.PortLeaves u.lineView) : LineEffect s u := by
  rcases h with h | ⟨hr, h⟩ | h
  · exact .none h
  · exact .startRun hr h
  · exact .softReset h

theorem LineEffect.of_endTransaction (s : State) : LineEffect s s.endTransaction := by
  rcases s.lineView_endTransaction with h | ⟨k, h⟩
  · exact .none h
  · exact .release k h

/-! ### One bit time -/

theorem State.isTransmitting_of_canFault {s : State} {n : Nat} (h : s.canFault n = true) : s.isTransmitting = true := by
  simp only [State.canFault, Bool.and_eq_true] at h
  exact h.1.1.1

theorem State.isTransmitting_of_canLoseAt {s : State} {bit : Fin 7} (h : s.canLoseAt bit = true) :
    s.isTransmitting = true := by
  simp only [State.canLoseAt, Bool.and_eq_true, Option.any_eq_true] at h
  obtain ⟨⟨hl, -⟩, f, hf, -⟩ := h
  simp only [State.lineIs, Bool.and_eq_true, beq_iff_eq] at hl
  exact State.isTransmitting_iff.2 ⟨hl.1, .inl hl.2, by simp [hf]⟩

/-- Without a staged frame there is no element to read back. -/
theorem State.staging_of_element {s : State} {n : Nat} {sent : Bool} (h : s.liu.elements[n]? = some sent) :
    s.liu.staging.isSome = true := by
  cases hs : s.liu.staging with
  | none => simp [Liu.elements, hs] at h
  | some f => rfl

theorem LineEffect.of_sampleReadback {s : State} (henabled : s.enabled = true)
    (hline : s.liu.line = .contending ∨ s.liu.line = .sending) (recessive : Bool) (order : FrameOrder) :
    LineEffect s (s.sampleReadback recessive order) := by
  unfold State.sampleReadback
  split
  · exact .none rfl
  next sent hsent =>
    have ht := State.isTransmitting_iff.2 ⟨henabled, hline, State.staging_of_element hsent⟩
    split
    · split
      next hn => exact .advance recessive ht hn
      next => exact .sentOk _ ht
    · split
      · exact .loseContention _ ht
      · exact .readbackFault _ _ ht

theorem LineEffect.of_bitTime {s : State} (henabled : s.enabled = true) (recessive : Bool) (order : FrameOrder) :
    LineEffect s (s.bitTime recessive order) := by
  have hline : ∀ {l}, s.liu.line = l → s.lineIs l = true := fun h => by simp [State.lineIs, henabled, h]
  unfold State.bitTime
  split
  next h =>
    unfold State.sampleIdle
    split
    next hc =>
      obtain ⟨ht, -⟩ := State.stage_line hc
      obtain ⟨he, hl, -⟩ := State.isTransmitting_iff.1 ht
      exact .stage hc (.of_sampleReadback he hl recessive order)
    next =>
      split
      next hr => exact hr ▸ .count true (.inl ⟨hline h, rfl⟩)
      next => exact .beginReception (hline h)
  next h => exact .of_sampleReadback henabled (.inl h) recessive order
  next h => exact .of_sampleReadback henabled (.inr h) recessive order
  next h =>
    unfold State.sampleReceiving
    split
    next a ha => exact .assemble recessive (hline h) ha
    next => exact .checkError (hline h)
    next => exact .receive _ _ _ (hline h)
  next h =>
    unfold State.sampleRecovering
    split
    next => exact .becomeIdle (hline h)
    next hc => exact .count recessive (.inr ⟨hline h, hc⟩)

/-! ### Every command and every input -/

/-- What a command or an input leaves: the state as it was, the finish of an effect on the line, or, at RSTn's own events, a
state at its reset values. -/
def EventLeaves (s t : State) : Prop :=
  t = s ∨ (∃ u, LineEffect s u ∧ t = u.finish)
    ∨ ∃ own phase low, t = { State.initial own phase with inReset := low, pending := s.pending, inputs := s.inputs }

/-- An event leaves what its effect leaves, or nothing. -/
theorem event_eventLeaves {r : Result} {reaches : State → Bool} {effect : State → State} {s : State}
    (hr : r = event reaches effect s) (h : reaches s = true → LineEffect s (effect s)) :
    ∃ t, r = .next t ∧ EventLeaves s t := by
  refine ⟨_, hr, ?_⟩
  split
  next hc =>
    rw [Bool.and_eq_true] at hc
    exact .inr (.inl ⟨_, h hc.2, rfl⟩)
  next => exact .inl rfl

/-- Every command has a next state, and what it leaves of the line is one of the cases of `EventLeaves`. -/
theorem exec_eventLeaves (c : Instr) (s : State) : ∃ t, exec c s = .next t ∧ EventLeaves s t := by
  have hcommand : ∀ (c : HostCommand) (params : List Byte),
      ∃ t, hostCommand c params (judgementOf c) s = .next t ∧ EventLeaves s t := fun c params =>
    event_eventLeaves rfl fun _ => .of_portLeaves (s.portLeaves_runCommand c params)
  cases c with
  | pinReset => exact ⟨_, rfl, .inr (.inr ⟨0, .waiting, true, rfl⟩)⟩
  | rstnRelease straps csnLow =>
    refine ⟨_, rfl, ?_⟩
    split
    · exact .inr (.inr ⟨straps, phaseAtRelease csnLow, false, rfl⟩)
    · exact .inl rfl
  | timeStampTick => exact event_eventLeaves (exec_timeStampTick s) fun _ => .none rfl
  | transactionStart => exact event_eventLeaves (exec_transactionStart s) fun _ => .none rfl
  | transactionEnd => exact event_eventLeaves (exec_transactionEnd s) fun _ => .of_endTransaction s
  | transactionCutShort => exact event_eventLeaves (exec_transactionCutShort s) fun _ => .none rfl
  | configure params => exact hcommand .configure params
  | start => exact hcommand .start []
  | leave => exact hcommand .leave []
  | reset => exact hcommand .reset []
  | submit params => exact hcommand .submit params
  | cancel handle => exact hcommand .cancel [handle]
  | readMessage => exact hcommand .readMessage []
  | readCompletion => exact hcommand .readCompletion []
  | readNotice => exact hcommand .readNotice []
  | readPeer address => exact hcommand .readPeer [address]
  | readStatus => exact hcommand .readStatus []
  | readCounters => exact hcommand .readCounters []
  | unknownCommand code =>
    exact event_eventLeaves (exec_unknownCommand code s) fun _ => .of_portLeaves (s.portLeaves_runCommand .unknown [])
  | lineIdle => exact event_eventLeaves (exec_lineIdle s) fun h => .becomeIdle h
  | contentionStarted => exact event_eventLeaves (exec_contentionStarted s) fun h => .stage h (.none rfl)
  | sentOk stagingFirst => exact event_eventLeaves (exec_sentOk stagingFirst s) fun h => .sentOk stagingFirst h
  | lostContention bit =>
    exact event_eventLeaves (exec_lostContention bit s) fun h =>
      .loseContention bit (State.isTransmitting_of_canLoseAt h)
  | readbackFault element scoreFirst =>
    exact event_eventLeaves (exec_readbackFault element scoreFirst s) fun h =>
      .readbackFault element scoreFirst (State.isTransmitting_of_canFault h)
  | checkError => exact event_eventLeaves (exec_checkError s) fun h => .checkError h
  | goodFrame order contention bytes =>
    exact event_eventLeaves (exec_goodFrame order contention bytes s) fun h => .receive order contention bytes h
  | joinTimerExpiry p => exact event_eventLeaves (exec_joinTimerExpiry p s) fun _ => .none (s.lineView_joinExpiry p)
  | silenceTimerExpiry p =>
    exact event_eventLeaves (exec_silenceTimerExpiry p s) fun _ => .none (s.lineView_losePeer p .silence)
  | ackTimerExpiry p => exact event_eventLeaves (exec_ackTimerExpiry p s) fun _ => .none (s.lineView_ackExpiry p)
  | ackDelayExpiry p => exact event_eventLeaves (exec_ackDelayExpiry p s) fun _ => .none rfl
  | helloTimerExpiry => exact event_eventLeaves (exec_helloTimerExpiry s) fun _ => .none rfl
  | holdoffExpiry =>
    refine event_eventLeaves (exec_holdoffExpiry s) fun h => .none (State.lineView_rejoin ?_)
    simp only [State.holdoffMayExpire, Bool.and_eq_true, beq_iff_eq] at h
    exact h.1
  | leaveLimitExpiry => exact event_eventLeaves (exec_leaveLimitExpiry s) fun _ => .endLeaving true
  | receptionStart => exact event_eventLeaves (exec_receptionStart s) fun h => .beginReception h
  | chipSelectRiseAfterReset => exact event_eventLeaves (exec_chipSelectRiseAfterReset s) fun _ => .none rfl

/-- The same of a bit time, an edge of SCLK and a byte. -/
theorem takeInput_eventLeaves (i : Input) (s : State) : ∃ t, takeInput i s = .next t ∧ EventLeaves s t := by
  cases i with
  | bitTime recessive order =>
    exact event_eventLeaves (takeInput_bitTime recessive order s) fun h => .of_bitTime h recessive order
  | sclkRise mosi =>
    exact event_eventLeaves (takeInput_sclkRise mosi s) fun _ => .of_portLeaves (s.portLeaves_clockRise mosi)
  | sclkFall => exact event_eventLeaves (takeInput_sclkFall s) fun _ => .none rfl
  | mosiByte byte =>
    exact event_eventLeaves (takeInput_mosiByte byte s) fun _ => .of_portLeaves (s.portLeaves_clockByte byte)

end Sys2Proof.Machine
end

section
/-! PROOFS. The checks of a byte phase, and reception element by element. -/

namespace Sys2Proof.Machine

/-! ### The length of a frame under reception -/

/-- The six bits of a length field in byte `i` of a byte phase, the first being byte 0 (R14). -/
def lengthAt (bytes : List Byte) (i : Nat) : Nat := ((byteAt bytes i).extractLsb' 0 6).toNat

theorem kindOf_cases (b : Byte) :
    kindOf b = 0 ∨ 1 ≤ kindOf b ∧ kindOf b ≤ 3 ∨ kindOf b = 4 ∨ kindOf b = 5 ∨ kindOf b = 6 ∨ kindOf b = 7 := by
  have hlt : kindOf b < 8 := (b.extractLsb' 5 3).isLt
  omega

theorem getElem?_map_length (bytes : List Byte) (i : Nat) :
    (bytes[i]?.map fun b => (b.extractLsb' 0 6).toNat) = if i < bytes.length then some (lengthAt bytes i) else none := by
  by_cases h : i < bytes.length <;> simp [h, lengthAt, byteAt]

section
variable {first : Byte} {rest : List Byte}

/-- The length field of a DATA frame is in its sixth byte, and that of a GROUP frame in its third (R14). -/
theorem lengthField_data (h : kindOf first = 4) :
    lengthField (first :: rest) = if 6 ≤ (first :: rest).length then some (lengthAt (first :: rest) 5) else none := by
  simp only [lengthField, h]
  exact getElem?_map_length (first :: rest) 5

theorem lengthField_group (h : kindOf first = 5) :
    lengthField (first :: rest) = if 3 ≤ (first :: rest).length then some (lengthAt (first :: rest) 2) else none := by
  simp only [lengthField, h]
  exact getElem?_map_length (first :: rest) 2

theorem lengthField_none (h4 : kindOf first ≠ 4) (h5 : kindOf first ≠ 5) : lengthField (first :: rest) = none := by
  unfold lengthField
  split <;> simp_all

theorem knownLength_hello (h : kindOf first = 0) : knownLength (first :: rest) = some 5 := by
  simp only [knownLength, h]

theorem knownLength_control (h : 1 ≤ kindOf first ∧ kindOf first ≤ 3) : knownLength (first :: rest) = some 7 := by
  have hk : kindOf first = 1 ∨ kindOf first = 2 ∨ kindOf first = 3 := by omega
  rcases hk with hk | hk | hk <;> simp only [knownLength, hk]

theorem knownLength_data (h : kindOf first = 4) :
    knownLength (first :: rest)
      = if 6 ≤ (first :: rest).length then some (8 + lengthAt (first :: rest) 5) else none := by
  simp only [knownLength, h, lengthField_data h]
  split <;> rfl

theorem knownLength_group (h : kindOf first = 5) :
    knownLength (first :: rest)
      = if 3 ≤ (first :: rest).length then some (5 + lengthAt (first :: rest) 2) else none := by
  simp only [knownLength, h, lengthField_group h]
  split <;> rfl

theorem knownLength_spare (h : kindOf first = 6 ∨ kindOf first = 7) : knownLength (first :: rest) = none := by
  rcases h with h | h <;> simp only [knownLength, h]

theorem phaseComplete_iff {bytes : List Byte} : phaseComplete bytes = true ↔ knownLength bytes = some bytes.length := by
  simp [phaseComplete]

/-! ### The bytes before the CRC -/

/-- The shapes of a byte phase without its CRC that a receiver takes: kind, destination of a HELLO, and length (R13, R18). -/
def BodyShape (first : Byte) (rest : List Byte) : Prop :=
  kindOf first = 0 ∧ rest.length = 2 ∧ destinationOf first = allStations
    ∨ (1 ≤ kindOf first ∧ kindOf first ≤ 3) ∧ rest.length = 4
    ∨ kindOf first = 4 ∧ rest.length = 5 + lengthAt (first :: rest) 5 ∧ lengthAt (first :: rest) 5 ≤ 48
    ∨ kindOf first = 5 ∧ rest.length = 2 + lengthAt (first :: rest) 2 ∧ lengthAt (first :: rest) 2 ≤ 48

theorem readHello_isSome {e flags : Byte} :
    (readHello first e flags).isSome = true ↔ destinationOf first = allStations := by
  unfold readHello
  split <;> simp_all

theorem readData_isSome {se de b4 b5 b6 : Byte} {payload : List Byte} :
    (readData first se de b4 b5 b6 payload).isSome = true
      ↔ payload.length = (b6.extractLsb' 0 6).toNat ∧ (b6.extractLsb' 0 6).toNat ≤ 48 := by
  have hlow : ((b4 ++ b5 ++ b6 : BitVec 24).extractLsb' 0 6).toNat = (b6.extractLsb' 0 6).toNat := by
    simp only [toNat_append_eq, toNat_extractLsb'_eq]
    omega
  simp only [readData, Option.isSome_ite, hlow]
  exact and_comm

theorem readGroup_isSome {tag len : Byte} {payload : List Byte} :
    (readGroup tag len payload).isSome = true
      ↔ payload.length = (len.extractLsb' 0 6).toNat ∧ (len.extractLsb' 0 6).toNat ≤ 48 := by
  simp only [readGroup, Option.isSome_ite]
  exact and_comm

end

theorem exists_cons_cons {α : Type} {l : List α} (h : 2 ≤ l.length) : ∃ a b t, l = a :: b :: t := by
  match l with
  | [] => simp at h
  | [_] => simp at h
  | a :: b :: t => exact ⟨a, b, t, rfl⟩

/-- A receiver reads a frame from exactly those bytes that have one of the shapes (R18). -/
theorem readFrame_isSome_iff {first : Byte} {rest : List Byte} :
    (readFrame (first :: rest)).isSome = true ↔ BodyShape first rest := by
  have hkind : (first.extractLsb' 5 3).toNat = kindOf first := rfl
  simp only [readFrame, hkind, BodyShape]
  split
  next e flags h0 => simp [h0, readHello_isSome]
  next h1 => simp [h1]
  next h2 => simp [h2]
  next h3 => simp [h3]
  next se de b4 b5 b6 payload h4 =>
    have hlength : lengthAt (first :: se :: de :: b4 :: b5 :: b6 :: payload) 5 = (b6.extractLsb' 0 6).toNat := rfl
    rw [readData_isSome, hlength]
    simp only [List.length_cons]
    exact ⟨fun h => .inr (.inr (.inl ⟨h4, by omega, h.2⟩)), fun h => by omega⟩
  next tag len payload h5 =>
    have hlength : lengthAt (first :: tag :: len :: payload) 2 = (len.extractLsb' 0 6).toNat := rfl
    rw [readGroup_isSome, hlength]
    simp only [List.length_cons]
    exact ⟨fun h => .inr (.inr (.inr ⟨h5, by omega, h.2⟩)), fun h => by omega⟩
  next rest _ _ h0 h1 h2 h3 h4 h5 =>
    refine ⟨nofun, ?_⟩
    rintro (⟨hk, hl, -⟩ | ⟨hk, hl⟩ | ⟨hk, hl, -⟩ | ⟨hk, hl, -⟩)
    · obtain ⟨e, flags, rfl⟩ := List.length_eq_two.1 hl
      exact (h0 e flags hk rfl).elim
    · obtain ⟨se, de, b4, b5, rfl⟩ := List.length_eq_four.1 hl
      have hk : kindOf first = 1 ∨ kindOf first = 2 ∨ kindOf first = 3 := by omega
      rcases hk with hk | hk | hk
      · exact (h1 se de b4 b5 hk rfl).elim
      · exact (h2 se de b4 b5 hk rfl).elim
      · exact (h3 se de b4 b5 hk rfl).elim
    · obtain ⟨se, de, t, rfl⟩ := exists_cons_cons (l := rest) (by omega)
      obtain ⟨b4, b5, u, rfl⟩ := exists_cons_cons (l := t) (by simp only [List.length_cons] at hl; omega)
      obtain ⟨b6, payload, rfl⟩ := List.exists_cons_of_length_pos (l := u) (by simp only [List.length_cons] at hl; omega)
      exact (h4 se de b4 b5 b6 payload hk rfl).elim
    · obtain ⟨tag, len, payload, rfl⟩ := exists_cons_cons (l := rest) (by omega)
      exact (h5 tag len payload hk rfl).elim

section
variable (first : Byte) (rest : List Byte)

/-- The checks of R18 that need no CRC, as far as they have fallen: the kind, the destination of a HELLO, the length. -/
def HeaderPasses : Prop :=
  kindOf first ≤ 5 ∧ (kindOf first = 0 → destinationOf first = allStations)
    ∧ ∀ n, lengthField (first :: rest) = some n → n ≤ 48

/-- The last two bytes are the frame check of those before them (R16). -/
def CrcStands (contention : BitVec 7) (bytes : List Byte) : Prop :=
  bytes.drop (bytes.length - 2) = bytesOf16 (frameCheck contention (bytes.take (bytes.length - 2)))

theorem headerPasses_iff :
    HeaderPasses first rest ↔
      kindOf first ≤ 5 ∧ (kindOf first = 0 → destinationOf first = allStations)
        ∧ (kindOf first = 4 → 6 ≤ (first :: rest).length → lengthAt (first :: rest) 5 ≤ 48)
        ∧ (kindOf first = 5 → 3 ≤ (first :: rest).length → lengthAt (first :: rest) 2 ≤ 48) := by
  refine and_congr_right fun _ => and_congr_right fun _ => ?_
  by_cases h4 : kindOf first = 4
  · rw [lengthField_data h4, h4]
    simp
  by_cases h5 : kindOf first = 5
  · rw [lengthField_group h5, h5]
    simp
  · simp [lengthField_none h4 h5, h4, h5]

theorem lengthAt_take {bytes : List Byte} {i k : Nat} (h : i < k) : lengthAt (bytes.take k) i = lengthAt bytes i := by
  simp only [lengthAt, byteAt, List.getD_eq_getElem?_getD, List.getElem?_take_of_lt h]

/-! The shapes and the checks kind by kind (R13, R18). -/

theorem bodyShape_hello (h : kindOf first = 0) :
    BodyShape first rest ↔ rest.length = 2 ∧ destinationOf first = allStations := by simp [BodyShape, h]

theorem bodyShape_control (h : 1 ≤ kindOf first ∧ kindOf first ≤ 3) : BodyShape first rest ↔ rest.length = 4 := by
  unfold BodyShape
  exact ⟨fun hs => by omega, fun hs => .inr (.inl ⟨h, hs⟩)⟩

theorem bodyShape_data (h : kindOf first = 4) :
    BodyShape first rest
      ↔ rest.length = 5 + lengthAt (first :: rest) 5 ∧ lengthAt (first :: rest) 5 ≤ 48 := by simp [BodyShape, h]

theorem bodyShape_group (h : kindOf first = 5) :
    BodyShape first rest
      ↔ rest.length = 2 + lengthAt (first :: rest) 2 ∧ lengthAt (first :: rest) 2 ≤ 48 := by simp [BodyShape, h]

theorem headerPasses_hello (h : kindOf first = 0) : HeaderPasses first rest ↔ destinationOf first = allStations := by
  simp [headerPasses_iff, h]

theorem headerPasses_control (h : 1 ≤ kindOf first ∧ kindOf first ≤ 3) : HeaderPasses first rest := by
  rw [headerPasses_iff]
  exact ⟨by omega, by omega, by omega, by omega⟩

theorem headerPasses_data (h : kindOf first = 4) :
    HeaderPasses first rest ↔ (6 ≤ (first :: rest).length → lengthAt (first :: rest) 5 ≤ 48) := by
  simp [headerPasses_iff, h]

theorem headerPasses_group (h : kindOf first = 5) :
    HeaderPasses first rest ↔ (3 ≤ (first :: rest).length → lengthAt (first :: rest) 2 ≤ 48) := by
  simp [headerPasses_iff, h]

/-- A byte phase is whole and passes its checks exactly if the bytes before the CRC have one of the shapes. -/
theorem bodyShape_take_iff (h : 3 ≤ (first :: rest).length) :
    BodyShape first (rest.take (rest.length - 2))
      ↔ HeaderPasses first rest ∧ knownLength (first :: rest) = some (first :: rest).length := by
  have hlength : (rest.take (rest.length - 2)).length = rest.length - 2 := by simp
  have hat : ∀ i < rest.length - 1,
      lengthAt (first :: rest.take (rest.length - 2)) i = lengthAt (first :: rest) i := fun i hi => by
    rw [← List.take_succ_cons]
    exact lengthAt_take (by omega)
  simp only [List.length_cons] at h
  rcases kindOf_cases first with hk | hk | hk | hk | hk
  · rw [bodyShape_hello _ _ hk, headerPasses_hello _ _ hk, knownLength_hello hk, hlength, and_comm, Option.some.injEq,
      List.length_cons]
    exact and_congr_right' (by omega)
  · rw [bodyShape_control _ _ hk, knownLength_control hk, hlength, Option.some.injEq, List.length_cons,
      and_iff_right (headerPasses_control _ _ hk)]
    omega
  · rw [bodyShape_data _ _ hk, headerPasses_data _ _ hk, knownLength_data hk, hlength, Option.ite_none_right_eq_some,
      Option.some.injEq, List.length_cons]
    by_cases hr : 7 ≤ rest.length
    · rw [hat 5 (by omega)]
      omega
    · omega
  · rw [bodyShape_group _ _ hk, headerPasses_group _ _ hk, knownLength_group hk, hlength, Option.ite_none_right_eq_some,
      Option.some.injEq, List.length_cons]
    by_cases hr : 4 ≤ rest.length
    · rw [hat 2 (by omega)]
      omega
    · omega
  · rw [knownLength_spare hk]
    unfold BodyShape
    exact ⟨fun hs => by omega, fun hs => nomatch hs.2⟩

theorem five_le_of_knownLength {n : Nat} (h : knownLength (first :: rest) = some n) : 5 ≤ n := by
  rcases kindOf_cases first with hk | hk | hk | hk | hk
  · rw [knownLength_hello hk, Option.some.injEq] at h
    omega
  · rw [knownLength_control hk, Option.some.injEq] at h
    omega
  · rw [knownLength_data hk, Option.ite_none_right_eq_some, Option.some.injEq] at h
    omega
  · rw [knownLength_group hk, Option.ite_none_right_eq_some, Option.some.injEq] at h
    omega
  · rw [knownLength_spare hk] at h
    cases h

theorem receiveFrame_isSome (c : BitVec 7) (bytes : List Byte) :
    (receiveFrame c bytes).isSome = true
      ↔ (2 ≤ bytes.length ∧ CrcStands c bytes) ∧ (readFrame (bytes.take (bytes.length - 2))).isSome = true := by
  simp only [receiveFrame, CrcStands]
  split
  next h => simp only [Option.isSome_map, h, and_self, true_and]
  next h => simp only [Option.isSome_none, Bool.false_eq_true, h, false_and]

/-- A receiver takes a frame exactly if its byte phase is whole, passes the checks, and its CRC stands (R17, R18). -/
theorem receiveFrame_isSome_iff (c : BitVec 7) :
    (receiveFrame c (first :: rest)).isSome = true
      ↔ (HeaderPasses first rest ∧ knownLength (first :: rest) = some (first :: rest).length)
          ∧ CrcStands c (first :: rest) := by
  rw [receiveFrame_isSome]
  by_cases hl : 3 ≤ (first :: rest).length
  · have htake : (first :: rest).take ((first :: rest).length - 2) = first :: rest.take (rest.length - 2) := by
      rw [← List.take_succ_cons]
      congr 1
      simp only [List.length_cons] at hl ⊢
      omega
    rw [htake, readFrame_isSome_iff, bodyShape_take_iff first rest hl, and_comm, and_iff_right (show 2 ≤ _ by omega)]
  · have htake : (first :: rest).take ((first :: rest).length - 2) = [] := by
      rw [show (first :: rest).length - 2 = 0 by omega, List.take_zero]
    rw [htake]
    refine ⟨fun h => absurd h.2 Bool.false_ne_true, fun h => ?_⟩
    have := five_le_of_knownLength first rest h.1.2
    omega

/-- The checks that fall at a byte are those of the header, and at the last byte the CRC (R18). -/
theorem storedBytesPass_iff (c : BitVec 7) :
    storedBytesPass c (first :: rest) = true
      ↔ HeaderPasses first rest
          ∧ (knownLength (first :: rest) = some (first :: rest).length → CrcStands c (first :: rest)) := by
  have hstored : storedBytesPass c (first :: rest) = true
      ↔ HeaderPasses first rest
          ∧ (phaseComplete (first :: rest) = true → (receiveFrame c (first :: rest)).isSome = true) := by
    simp only [storedBytesPass, HeaderPasses, Bool.and_eq_true, Bool.or_eq_true, decide_eq_true_eq, bne_iff_ne, beq_iff_eq,
      Option.all_eq_true, Bool.not_eq_true', and_assoc, imp_iff_not_or (a := kindOf first = 0),
      imp_iff_not_or (a := phaseComplete _ = true), Bool.not_eq_true]
    rfl
  rw [hstored, phaseComplete_iff, receiveFrame_isSome_iff]
  exact and_congr_right fun hh => imp_congr_right fun hn => and_iff_right ⟨hh, hn⟩

end

/-! ### Reception, element by element -/

section
variable {s : State} {recessive : Bool} {order : FrameOrder}

/-- An element that goes on leaves the assembly buffer it answers, and the idle count as it follows the sample (R3, R17). -/
theorem State.OnLine.takes_continues (h : s.OnLine .receiving) {a : Assembly}
    (ha : s.liu.assembly.take recessive = .continues a) :
    Takes (.bitTime recessive order) s
      { s with liu := { s.liu with
          assembly := a, idleCount := if recessive then min 11 (s.liu.idleCount + 1) else 0 } } := by
  refine h.takes (State.bitTime_receiving h.2.2) ?_
  rw [State.sampleReceiving, ha]
  rfl

/-- An element that fails a check is the row CHECK_ERROR (R18). -/
theorem State.OnLine.takesAs_checkError (h : s.OnLine .receiving)
    (ha : s.liu.assembly.take recessive = .checkError) : TakesAs (.bitTime recessive order) s .checkError := by
  refine h.takesAs (exec_checkError s) h.lineIs ((State.bitTime_receiving h.2.2).trans ?_)
  rw [State.sampleReceiving, ha]

/-- The element that completes the frame is the row GOOD_FRAME with what was sampled (R17, R19). -/
theorem State.OnLine.takesAs_goodFrame (h : s.OnLine .receiving) (ha : s.liu.assembly.take recessive = .complete) :
    TakesAs (.bitTime recessive order) s
      (.goodFrame order (contentionOfBits s.liu.assembly.bits) s.liu.assembly.bytes) := by
  refine h.takesAs (exec_goodFrame _ _ _ s) h.lineIs ((State.bitTime_receiving h.2.2).trans ?_)
  rw [State.sampleReceiving, ha]

end

section
variable {a : Assembly} {recessive : Bool}

theorem Assembly.take_contention (h : a.bits.length < 7) :
    a.take recessive = .continues { a with bits := a.bits ++ [recessive] } := by
  rw [Assembly.take, if_pos h]

theorem Assembly.take_byteElement (h : 7 ≤ a.bits.length) (hp : knownLength a.bytes ≠ some a.bytes.length) :
    a.take recessive = a.takeByteElement recessive := by
  rw [Assembly.take, if_neg (by omega), if_neg (by rwa [phaseComplete_iff])]

theorem Assembly.take_markerElement (h : 7 ≤ a.bits.length) (hp : knownLength a.bytes = some a.bytes.length) :
    a.take recessive = a.takeMarkerElement recessive := by
  rw [Assembly.take, if_neg (by omega), if_pos (phaseComplete_iff.2 hp)]

theorem Assembly.takeByteElement_start (h : a.tail = []) :
    a.takeByteElement recessive = if recessive then .checkError else .continues { a with tail := [false] } := by
  rw [Assembly.takeByteElement, if_pos h]

theorem Assembly.takeByteElement_data (h1 : 1 ≤ a.tail.length) (h9 : a.tail.length < 9) :
    a.takeByteElement recessive = .continues { a with tail := a.tail ++ [recessive] } := by
  rw [Assembly.takeByteElement, if_neg (List.length_pos_iff.1 h1), if_pos h9]

theorem Assembly.takeByteElement_stop (h9 : 9 ≤ a.tail.length) :
    a.takeByteElement recessive
      = if recessive && storedBytesPass (contentionOfBits a.bits) (a.bytes ++ [byteOfBits (a.tail.drop 1)]) then
          .continues { a with bytes := a.bytes ++ [byteOfBits (a.tail.drop 1)], tail := [] }
        else .checkError := by
  have hne : a.tail ≠ [] := List.length_pos_iff.1 (by omega)
  rw [Assembly.takeByteElement, if_neg hne, if_neg (by omega)]

theorem Assembly.takeMarkerElement_within (ht : a.tail.length < 10) :
    a.takeMarkerElement true = .continues { a with tail := a.tail ++ [true] } := by
  rw [Assembly.takeMarkerElement, if_pos rfl, if_pos ht]

theorem Assembly.takeMarkerElement_last (ht : 10 ≤ a.tail.length) : a.takeMarkerElement true = .complete := by
  rw [Assembly.takeMarkerElement, if_pos rfl, if_neg (by omega)]

theorem Assembly.takeMarkerElement_dominant : a.takeMarkerElement false = .checkError := rfl

end

theorem byteOfBits_dataBits : ∀ b : Byte, byteOfBits (dataBits b) = b := by decide +kernel

/-- Settles O22: each element by the phase it falls in, the byte that data bits spell, and the checks byte by byte. -/
theorem receptionFollowsTheElements : Obligations.ReceptionFollowsTheElements := by
  refine ⟨fun s recessive order h => ?_, fun b => ⟨byteOfBits_dataBits b, fun i hi => getElem?_dataBits b hi⟩,
    fun c first rest => ?_⟩
  · intro a c phaseOver error keeps
    refine ⟨fun hb => h.takes_continues (Assembly.take_contention hb), fun hb hp => ⟨fun ht => ?_, fun h1 h9 => ?_,
      fun h9 => ?_⟩, fun hb hp => ⟨fun hr => ?_, fun hr ht => ?_, fun hr ht => ?_⟩⟩
    · have htake := (Assembly.take_byteElement (recessive := recessive) hb hp).trans (Assembly.takeByteElement_start ht)
      cases recessive with
      | true => exact h.takesAs_checkError htake
      | false => exact h.takes_continues htake
    · exact h.takes_continues ((Assembly.take_byteElement hb hp).trans (Assembly.takeByteElement_data h1 h9))
    · intro bytes
      have htake := (Assembly.take_byteElement (recessive := recessive) hb hp).trans (Assembly.takeByteElement_stop h9)
      split
      next hpass => exact h.takes_continues (htake.trans (if_pos (Bool.and_eq_true_iff.2 hpass)))
      next hpass => exact h.takesAs_checkError (htake.trans (if_neg (mt Bool.and_eq_true_iff.1 hpass)))
    · subst hr
      exact h.takesAs_checkError ((Assembly.take_markerElement hb hp).trans Assembly.takeMarkerElement_dominant)
    · subst hr
      exact h.takes_continues ((Assembly.take_markerElement hb hp).trans (Assembly.takeMarkerElement_within ht))
    · subst hr
      exact h.takesAs_goodFrame ((Assembly.take_markerElement hb hp).trans (Assembly.takeMarkerElement_last ht))
  · refine ⟨knownLength_hello, fun hk => knownLength_control ?_, knownLength_data, knownLength_group, ?_⟩
    · simp only [List.mem_cons, List.not_mem_nil, or_false] at hk
      unfold kindOf
      omega
    · refine (storedBytesPass_iff first rest c).trans ?_
      rw [headerPasses_iff]
      simp only [and_assoc]
      rfl

end Sys2Proof.Machine
end

section
/-! PROOFS. No event touches what waits. -/

namespace Sys2Proof.Machine

/-! ### What waits is left alone -/

/-- What waits: the queue of commands, and what the pins bring. -/
def State.queues (s : State) : List Instr × List Input := (s.pending, s.inputs)

theorem State.queues_of_lineView {s t : State} (h : t.lineView = s.lineView) : t.queues = s.queues :=
  Prod.ext (State.pending_of_lineView h) (State.inputs_of_lineView h)

section
variable (s : State)

@[simp] theorem State.queues_onLiu (f : Liu → Liu) : (s.onLiu f).queues = s.queues := rfl
@[simp] theorem State.queues_count (c : CounterName) : (s.count c).queues = s.queues := rfl
@[simp] theorem State.queues_clearStaged : s.clearStaged.queues = s.queues := rfl

@[simp] theorem State.queues_healthReport (r : HealthReport) : (s.healthReport r).queues = s.queues :=
  State.queues_of_lineView (s.lineView_healthReport r)

@[simp] theorem State.queues_reportClash : s.reportClash.queues = s.queues :=
  State.queues_of_lineView s.lineView_reportClash

@[simp] theorem State.queues_takeRecord (a : Address) (f : FrameBody) : (s.takeRecord a f).queues = s.queues :=
  State.queues_of_lineView (s.lineView_takeRecord a f)

@[simp] theorem State.queues_takeFailure : s.takeFailure.queues = s.queues :=
  State.queues_of_lineView (s := s.clearStaged) s.lineView_takeFailure

@[simp] theorem State.queues_contentionOpportunity : s.contentionOpportunity.queues = s.queues := by
  obtain ⟨c, h⟩ := s.contentionOpportunity_eq
  rw [h]
  rfl

@[simp] theorem State.queues_finish : s.finish.queues = s.queues := by
  rw [State.queues, State.finish_pending, State.finish_inputs, State.queues]

@[simp] theorem State.queues_stage : s.stage.queues = s.queues := by
  rcases s.stage_cases with h | ⟨c, u, f, r, -, -, h⟩
  · rw [h]
  · rw [h]
    rfl

@[simp] theorem State.queues_chooseAndStage : s.chooseAndStage.queues = s.queues := by
  rcases s.chooseAndStage_cases with h | ⟨-, -, h⟩
  · rw [h]
  · rw [h, State.queues_stage, State.queues_contentionOpportunity]

@[simp] theorem State.queues_endLeaving (timedOut : Bool) : (s.endLeaving timedOut).queues = s.queues := by
  cases timedOut <;> rfl

@[simp] theorem State.queues_takeSentOk : s.takeSentOk.queues = s.queues := by
  rcases s.takeSentOk_cases with h | ⟨-, h⟩
  · rw [State.queues_of_lineView h, State.queues_clearStaged]
  · rw [h, State.queues_endLeaving]

@[simp] theorem State.queues_sentOk (stagingFirst : Bool) : (s.sentOk stagingFirst).queues = s.queues := by
  cases stagingFirst <;> simp [State.sentOk]

@[simp] theorem State.queues_loseContention (bit : Fin 7) : (s.loseContention bit).queues = s.queues := by
  simp [State.loseContention]

@[simp] theorem State.queues_readbackFault (element : Nat) (scoreFirst : Bool) :
    (s.readbackFault element scoreFirst).queues = s.queues := by
  cases scoreFirst <;> simp [State.readbackFault]

@[simp] theorem State.queues_checkError : s.checkError.queues = s.queues := by simp [State.checkError]

@[simp] theorem State.queues_addressClash (order : FrameOrder) : (s.addressClash order).queues = s.queues := by
  cases order <;> simp [State.addressClash]

@[simp] theorem State.queues_goodFrame (order : FrameOrder) (a : Address) (f : FrameBody) :
    (s.goodFrame order a f).queues = s.queues := by
  cases order <;> simp [State.goodFrame]

@[simp] theorem State.queues_receive (order : FrameOrder) (contention : BitVec 7) (bytes : List Byte) :
    (s.receive order contention bytes).queues = s.queues := by
  simp only [State.receive]
  split
  · simp
  · split <;> simp

end

/-- No effect touches what waits. -/
theorem LineEffect.queues {s u : State} (h : LineEffect s u) : u.queues = s.queues := by
  induction h with
  | none h => exact State.queues_of_lineView h
  | release _ hu =>
    exact Prod.ext (congrArg LineView.pending hu) (congrArg LineView.inputs hu)
  | startRun _ hu => exact (State.queues_of_lineView hu).trans rfl
  | softReset hu => exact (State.queues_of_lineView hu).trans rfl
  | stage _ _ ih => exact ih.trans (State.queues_stage _)
  | endLeaving timedOut => exact State.queues_endLeaving _ timedOut
  | checkError _ => exact State.queues_checkError _
  | receive order contention bytes _ => exact State.queues_receive _ order contention bytes
  | sentOk stagingFirst _ => exact State.queues_sentOk _ stagingFirst
  | loseContention bit _ => exact State.queues_loseContention _ bit
  | readbackFault element scoreFirst _ => exact State.queues_readbackFault _ element scoreFirst
  | becomeIdle _ => rfl
  | count _ _ => rfl
  | beginReception _ => rfl
  | assemble _ _ _ => rfl
  | advance _ _ _ => rfl

theorem EventLeaves.queues {s t : State} (h : EventLeaves s t) : t.queues = s.queues := by
  rcases h with rfl | ⟨u, hu, rfl⟩ | ⟨own, phase, low, rfl⟩
  · rfl
  · exact (State.queues_finish u).trans hu.queues
  · rfl

/-- Settles O2: whatever an event leaves, it leaves what waits. -/
theorem everyCommandCompletesAndKeepsQueue : Obligations.EveryCommandCompletesAndKeepsQueue := by
  refine ⟨fun c s => ?_, fun i s => ?_⟩
  · obtain ⟨t, ht, hleaves⟩ := exec_eventLeaves c s
    exact ⟨t, ht, congrArg Prod.fst hleaves.queues, congrArg Prod.snd hleaves.queues⟩
  · obtain ⟨t, ht, hleaves⟩ := takeInput_eventLeaves i s
    exact ⟨t, ht, congrArg Prod.fst hleaves.queues, congrArg Prod.snd hleaves.queues⟩

end Sys2Proof.Machine
end

section
/-! PROOFS. The law of the line interface unit. -/

namespace Sys2Proof.Machine

/-! ### What the reports of an event keep -/

/-- A property that looks at the view only and that a choice staged at once keeps. -/
structure LineInvariant (P : State → Prop) : Prop where
  view {s t : State} : t.lineView = s.lineView → P s → P t
  staging {s : State} : P s → P s.chooseAndStage

/-- The reports of an address clash keep it, in each order (R20, R98). -/
theorem LineInvariant.addressClash {P : State → Prop} (hP : LineInvariant P) {s : State} (h : P s) (order : FrameOrder) :
    P (s.addressClash order) := by
  have hcounted : P (s.count .checkErrors) := hP.view (s.lineView_count _) h
  have hreport : ∀ {t : State}, P t → P t.reportClash := fun ht => hP.view (State.lineView_reportClash _) ht
  cases order with
  | recordFirst => exact hreport hcounted
  | idleAfterScore => exact hP.staging (hreport hcounted)
  | idleBeforeScore => exact hreport (hP.staging hcounted)

/-- The reports of a good frame and its record keep it, in each order (R19, R98, R131). -/
theorem LineInvariant.goodFrame {P : State → Prop} (hP : LineInvariant P) {s : State} (h : P s) (order : FrameOrder)
    (a : Address) (f : FrameBody) : P (s.goodFrame order a f) := by
  have hcounted : P (s.count .framesReceived) := hP.view (s.lineView_count _) h
  have hreport : ∀ {t : State}, P t → P (t.healthReport .goodFrame) := fun ht =>
    hP.view (State.lineView_healthReport _ _) ht
  have hrecord : ∀ {t : State}, P t → P (t.takeRecord a f) := fun ht => hP.view (State.lineView_takeRecord _ a f) ht
  cases order with
  | recordFirst => exact hrecord (hreport hcounted)
  | idleAfterScore => exact hrecord (hP.staging (hreport hcounted))
  | idleBeforeScore => exact hrecord (hreport (hP.staging hcounted))

/-! ### The LIU without a frame of this station -/

/-- The LIU while no frame of this station is on the line: nothing staged, nothing driven, and the idle count as the line
state has it (R3, R10, R12). -/
structure Liu.NoFrame (l : Liu) : Prop where
  line : l.line.transmits = false
  staging : l.staging = none
  matched : l.matched = 0
  ltxLow : l.ltxLow = false
  idleCount : l.idleCount ≤ 11
  idle : l.line = .idle → l.idleCount = 11
  recovering : l.line = .recovering → l.idleCount < 11

section
variable {l : Liu}

theorem Liu.NoFrame.becomeIdle (h : l.NoFrame) : l.becomeIdle.NoFrame where
  line := rfl
  staging := h.staging
  matched := h.matched
  ltxLow := rfl
  idleCount := le_refl 11
  idle _ := rfl
  recovering := nofun

theorem Liu.NoFrame.completeFrame (h : l.NoFrame) (c : BitVec 7) (bytes : List Byte) : (l.completeFrame c bytes).NoFrame :=
  { h.becomeIdle with }

theorem Liu.NoFrame.beginReception (h : l.NoFrame) : l.beginReception.NoFrame where
  line := rfl
  staging := h.staging
  matched := h.matched
  ltxLow := h.ltxLow
  idleCount := Nat.zero_le 11
  idle := nofun
  recovering := nofun

theorem Liu.NoFrame.recover (h : l.NoFrame) : l.recover.NoFrame where
  line := rfl
  staging := h.staging
  matched := h.matched
  ltxLow := rfl
  idleCount := Nat.zero_le 11
  idle := nofun
  recovering _ := Nat.zero_lt_succ 10

theorem Liu.NoFrame.discardAssembly (h : l.NoFrame) : l.discardAssembly.NoFrame := { h.recover with }

/-- A sample is counted without effect in IDLE if it is recessive, in RECOVERING below the eleventh, and in RECEIVING. -/
theorem Liu.NoFrame.countSample (h : l.NoFrame) {recessive : Bool} (hi : l.line = .idle → recessive = true)
    (hr : l.line = .recovering → Machine.countSample recessive l.idleCount ≠ 11) : (l.countSample recessive).NoFrame where
  line := h.line
  staging := h.staging
  matched := h.matched
  ltxLow := h.ltxLow
  idleCount := countSample_le recessive l.idleCount
  idle hl := by
    show Machine.countSample recessive l.idleCount = 11
    rw [hi hl, h.idle hl]
    rfl
  recovering hl := Nat.lt_of_le_of_ne (countSample_le recessive l.idleCount) (hr hl)

theorem Liu.NoFrame.withAssembly (h : l.NoFrame) (a : Assembly) : Liu.NoFrame { l with assembly := a } := { h with }

theorem Liu.noFrame_sentOk (l : Liu) : l.sentOk.NoFrame := by
  rw [Liu.sentOk_eq]
  exact ⟨rfl, rfl, rfl, rfl, le_refl 11, fun _ => rfl, nofun⟩

theorem Liu.noFrame_fault (element : Nat) (l : Liu) : (l.fault element).NoFrame := by
  rw [Liu.fault_eq]
  exact ⟨rfl, rfl, rfl, rfl, Nat.zero_le 11, nofun, fun _ => Nat.zero_lt_succ 10⟩

theorem Liu.noFrame_loseContention (bit : Fin 7) (l : Liu) : (l.loseContention bit).NoFrame :=
  ⟨rfl, rfl, rfl, rfl, Nat.zero_le 11, nofun, nofun⟩

theorem Liu.noFrame_recover_disabled : Liu.disabled.recover.NoFrame :=
  ⟨rfl, rfl, rfl, rfl, Nat.zero_le 11, nofun, fun _ => Nat.zero_lt_succ 10⟩

end

/-! ### The law of the LIU -/

section
variable {s t : State}

/-- The law looks at the LIU, at whether a record is staged, at what is presented and at whether the LIU is enabled. -/
theorem State.lineLaw_congr (henabled : t.enabled = s.enabled) (hliu : t.liu = s.liu)
    (hstaged : t.txs.staged.isSome = s.txs.staged.isSome) (hpresented : t.txs.presented = s.txs.presented)
    (h : s.LineLaw) : t.LineLaw := by
  unfold State.LineLaw at h ⊢
  rwa [henabled, hliu, hstaged, hpresented]

theorem State.lineLaw_of_lineView (h : t.lineView = s.lineView) (hs : s.LineLaw) : t.LineLaw :=
  State.lineLaw_congr (State.enabled_of_lineView h) (State.liu_of_lineView h)
    (congrArg Option.isSome (State.staged_of_lineView h)) (State.presented_of_lineView h) hs

theorem State.lineLaw_of_noFrame (henabled : s.enabled = true) (hstaged : s.txs.staged = none) (h : s.liu.NoFrame) :
    s.LineLaw := by
  have helements : s.liu.elements = [] := by rw [Liu.elements, h.staging]; rfl
  refine ⟨by rw [h.staging, h.line]; rfl, by rw [hstaged, h.line]; rfl, by simp [henabled], h.idleCount,
    fun _ => ⟨h.idle, h.recovering⟩, by simp [h.ltxLow, helements], fun hl => ?_, fun hl => ?_, fun _ => h.matched⟩
  · exact absurd (hl ▸ h.line) (by decide)
  · exact absurd (hl ▸ h.line) (by decide)

theorem State.lineLaw_of_disabled (henabled : s.enabled = false) (hstaged : s.txs.staged = none)
    (hpresented : s.txs.presented = none) (h : s.liu = .disabled) : s.LineLaw := by
  unfold State.LineLaw
  rw [henabled, hstaged, hpresented, h]
  exact ⟨rfl, rfl, fun _ => ⟨rfl, rfl⟩, Nat.zero_le 11, nofun, by decide, nofun, nofun, fun _ => rfl⟩

theorem State.LineLaw.noFrame (h : s.LineLaw) (henabled : s.enabled = true) (hl : s.liu.line.transmits = false) :
    s.liu.NoFrame ∧ s.txs.staged = none := by
  obtain ⟨hstaging, hstaged, -, hcount, hline, hltx, -, -, hmatched⟩ := h
  have hnone : s.liu.staging = none := by simpa [hl] using hstaging
  have helements : s.liu.elements = [] := by rw [Liu.elements, hnone]; rfl
  refine ⟨⟨hl, hnone, hmatched hl, ?_, hcount, (hline henabled).1, (hline henabled).2⟩, by simpa [hl] using hstaged⟩
  simpa [helements] using hltx

theorem State.LineLaw.noFrame_of_lineIs {l : LineState} (h : s.LineLaw) (hl : s.lineIs l = true)
    (ht : l.transmits = false) : s.enabled = true ∧ s.liu.line = l ∧ s.liu.NoFrame ∧ s.txs.staged = none := by
  simp only [State.lineIs, Bool.and_eq_true, beq_iff_eq] at hl
  exact ⟨hl.1, hl.2, h.noFrame hl.1 (hl.2.symm ▸ ht)⟩

theorem State.LineLaw.contentionOpportunity (h : s.LineLaw) : s.contentionOpportunity.LineLaw := by
  unfold State.contentionOpportunity
  split
  next hc =>
    simp only [State.lineIdle, Bool.and_eq_true] at hc
    obtain ⟨h1, h2, -, h3⟩ := h
    exact ⟨h1, h2, fun he => absurd (hc.1.1.symm.trans he) (by decide), h3⟩
  next => exact h

theorem State.LineLaw.finish (h : s.LineLaw) : s.finish.LineLaw :=
  State.lineLaw_of_lineView (s := s.contentionOpportunity) rfl h.contentionOpportunity

theorem State.enabled_of_canStage (h : s.canStage = true) : s.enabled = true := by
  simp only [State.canStage, State.lineIdle, Bool.and_eq_true] at h
  exact h.1.1.1

/-- The staging moment keeps the law: the start element is being driven (R6). -/
theorem State.LineLaw.stage (h : s.LineLaw) (henabled : s.enabled = true) : s.stage.LineLaw := by
  rcases s.stage_cases with hs | ⟨c, u, f, r, -, -, hs⟩
  · rwa [hs]
  · rw [hs]
    obtain ⟨-, -, -, hcount, -⟩ := h
    have hno : ¬(s.enabled = false) := by simp [henabled]
    exact ⟨rfl, rfl, fun he => absurd he hno, hcount, fun _ => ⟨nofun, nofun⟩, ⟨fun _ => rfl, fun _ => rfl⟩,
      fun _ => by simp, nofun, nofun⟩

theorem State.LineLaw.chooseAndStage (h : s.LineLaw) : s.chooseAndStage.LineLaw := by
  rcases s.chooseAndStage_cases with hs | ⟨hidle, -, hs⟩
  · rwa [hs]
  · rw [hs]
    simp only [State.lineIdle, Bool.and_eq_true] at hidle
    obtain ⟨c, hc⟩ := s.contentionOpportunity_eq
    refine h.contentionOpportunity.stage ?_
    rw [hc]
    exact hidle.1

theorem State.LineLaw.healthReport (h : s.LineLaw) (r : HealthReport) : (s.healthReport r).LineLaw :=
  State.lineLaw_of_lineView (s.lineView_healthReport r) h

theorem lineInvariant_lineLaw : LineInvariant State.LineLaw := ⟨State.lineLaw_of_lineView, State.LineLaw.chooseAndStage⟩

theorem State.lineLaw_endLeaving (s : State) (timedOut : Bool) : (s.endLeaving timedOut).LineLaw :=
  State.lineLaw_of_disabled rfl rfl rfl rfl

theorem State.lineLaw_softReset (s : State) : s.softReset.LineLaw := by
  refine State.lineLaw_of_disabled ?_ rfl rfl rfl
  simp only [State.enabled, State.softReset]
  split <;> rfl

/-- START leaves a disabled LIU in RECOVERING (R148). -/
theorem State.LineLaw.startRun (h : s.LineLaw) (hr : s.control.opState = .ready) : s.startRun.LineLaw := by
  have hdisabled : s.enabled = false := by rw [State.enabled, hr]; rfl
  obtain ⟨-, hstaged, hrest, -⟩ := h
  have hliu : s.liu = .disabled := (hrest hdisabled).1
  refine State.lineLaw_of_noFrame rfl ?_ ?_
  · rw [hliu] at hstaged
    have hnone : s.txs.staged = none := Option.not_isSome_iff_eq_none.1 (by rw [hstaged]; decide)
    exact hnone
  · have hrecover : s.startRun.liu = s.liu.recover := rfl
    rw [hrecover, hliu]
    exact Liu.noFrame_recover_disabled

/-- With no frame on the line any more, TXS's outcome keeps the law (R109, R110). -/
theorem State.lineLaw_takeSentOk (henabled : s.enabled = true) (h : s.liu.NoFrame) : s.takeSentOk.LineLaw := by
  rcases s.takeSentOk_cases with hs | ⟨-, hs⟩
  · exact State.lineLaw_of_lineView hs (State.lineLaw_of_noFrame (s := s.clearStaged) henabled rfl h)
  · rw [hs]
    exact s.lineLaw_endLeaving false

theorem State.lineLaw_takeFailure (henabled : s.enabled = true) (h : s.liu.NoFrame) : s.takeFailure.LineLaw :=
  State.lineLaw_of_lineView s.lineView_takeFailure (State.lineLaw_of_noFrame (s := s.clearStaged) henabled rfl h)

theorem State.lineLaw_sentOk (henabled : s.enabled = true) (stagingFirst : Bool) : (s.sentOk stagingFirst).LineLaw := by
  have hcounted : ((s.onLiu Liu.sentOk).count .framesSent).liu.NoFrame := s.liu.noFrame_sentOk
  cases stagingFirst with
  | true =>
    have htaken := State.lineLaw_takeSentOk (s := (s.onLiu Liu.sentOk).count .framesSent) henabled hcounted
    exact htaken.chooseAndStage.healthReport .sentOk
  | false =>
    have hview := ((s.onLiu Liu.sentOk).count .framesSent).lineView_healthReport .sentOk
    refine State.lineLaw_takeSentOk ((State.enabled_of_lineView hview).trans henabled) ?_
    rw [State.liu_of_lineView hview]
    exact hcounted

theorem State.lineLaw_readbackFault (henabled : s.enabled = true) (element : Nat) (scoreFirst : Bool) :
    (s.readbackFault element scoreFirst).LineLaw := by
  have hcounted : ((s.onLiu (Liu.fault element)).count .readbackFaults).liu.NoFrame := s.liu.noFrame_fault element
  cases scoreFirst with
  | true =>
    have hview := ((s.onLiu (Liu.fault element)).count .readbackFaults).lineView_healthReport .readbackFault
    refine State.lineLaw_takeFailure ((State.enabled_of_lineView hview).trans henabled) ?_
    rw [State.liu_of_lineView hview]
    exact hcounted
  | false =>
    have htaken := State.lineLaw_takeFailure (s := (s.onLiu (Liu.fault element)).count .readbackFaults) henabled hcounted
    exact htaken.healthReport .readbackFault

theorem State.LineLaw.checkError (h : s.LineLaw) (hl : s.lineIs .receiving = true) : s.checkError.LineLaw := by
  obtain ⟨he, -, hn, hstaged⟩ := h.noFrame_of_lineIs hl rfl
  have hdiscarded : ((s.onLiu Liu.discardAssembly).count .checkErrors).LineLaw :=
    State.lineLaw_of_noFrame he hstaged hn.discardAssembly
  exact hdiscarded.healthReport .checkError

/-- The end of a frame under reception keeps the law (R10, R18, R19, R20). -/
theorem State.LineLaw.receive (h : s.LineLaw) (hl : s.lineIs .receiving = true) (order : FrameOrder)
    (contention : BitVec 7) (bytes : List Byte) : (s.receive order contention bytes).LineLaw := by
  obtain ⟨he, -, hn, hstaged⟩ := h.noFrame_of_lineIs hl rfl
  have hcomplete : ∀ c phase, (s.onLiu (Liu.completeFrame c phase)).LineLaw := fun c phase =>
    State.lineLaw_of_noFrame he hstaged (hn.completeFrame c phase)
  simp only [State.receive]
  split
  · exact h.checkError hl
  · split
    · exact lineInvariant_lineLaw.addressClash (hcomplete _ _) order
    · exact lineInvariant_lineLaw.goodFrame (hcomplete _ _) order _ _

theorem State.lineLaw_loseContention (henabled : s.enabled = true) (bit : Fin 7) : (s.loseContention bit).LineLaw :=
  State.lineLaw_takeFailure (s := (s.onLiu (Liu.loseContention bit)).count .contentionLosses) henabled
    (s.liu.noFrame_loseContention bit)

/-- The next element is driven, in SENDING once the contention field is behind (R1, R7). -/
theorem State.LineLaw.advance (h : s.LineLaw) (ht : s.isTransmitting = true)
    (hn : s.liu.matched + 1 < s.liu.elements.length) (recessive : Bool) :
    (s.onLiu fun l => (l.matchTo (l.matched + 1)).countSample recessive).LineLaw := by
  obtain ⟨henabled, hline, -⟩ := State.isTransmitting_iff.1 ht
  obtain ⟨hstaging, hstaged, -, -, -, -, hcontending, hsending, -⟩ := h
  have hno : ¬(s.enabled = false) := by simp [henabled]
  have hafter : (s.liu.matchTo (s.liu.matched + 1)).line = .contending ∧ s.liu.matched + 1 < 8
      ∨ (s.liu.matchTo (s.liu.matched + 1)).line = .sending ∧ 8 ≤ s.liu.matched + 1 := by
    rw [Liu.matchTo_line]
    split
    next h8 => exact .inr ⟨rfl, h8⟩
    next h8 =>
      rcases hline with hl | hl
      · exact .inl ⟨hl, by omega⟩
      · exact absurd (hsending hl).1 (by omega)
  have hbefore : s.liu.line.transmits = true := by rcases hline with hl | hl <;> rw [hl] <;> rfl
  have htransmits : (s.liu.matchTo (s.liu.matched + 1)).line.transmits = true := by
    rcases hafter with ⟨hl, -⟩ | ⟨hl, -⟩ <;> rw [hl] <;> rfl
  rw [hbefore] at hstaging hstaged
  refine ⟨hstaging.trans htransmits.symm, hstaged.trans htransmits.symm, fun he => absurd he hno, countSample_le _ _,
    fun _ => ⟨fun hl => ?_, fun hl => ?_⟩, beq_iff_eq, fun hl => ?_, fun hl => ?_, fun hl => ?_⟩
  · exact absurd ((congrArg LineState.transmits hl).symm.trans htransmits) (by decide)
  · exact absurd ((congrArg LineState.transmits hl).symm.trans htransmits) (by decide)
  · rcases hafter with ⟨-, h8⟩ | ⟨hs, -⟩
    · exact h8
    · exact absurd (hs.symm.trans hl) (by decide)
  · rcases hafter with ⟨hc, -⟩ | ⟨-, h8⟩
    · exact absurd (hc.symm.trans hl) (by decide)
    · exact ⟨h8, hn⟩
  · exact absurd (hl.symm.trans htransmits) (by decide)

end

/-- Every effect keeps the law of the LIU. -/
theorem LineEffect.lineLaw {s u : State} (h : LineEffect s u) : s.LineLaw → u.LineLaw := by
  induction h with
  | none h => exact State.lineLaw_of_lineView h
  | release k hu =>
    have hstaged := (congrArg Option.isSome (congrArg LineView.staged hu)).trans Option.isSome_map
    exact State.lineLaw_congr (congrArg LineView.enabled hu) (congrArg LineView.liu hu) hstaged
      (congrArg LineView.presented hu)
  | startRun hr hu => exact fun hs => State.lineLaw_of_lineView hu (hs.startRun hr)
  | softReset hu => exact fun _ => State.lineLaw_of_lineView hu (State.lineLaw_softReset _)
  | endLeaving timedOut => exact fun _ => State.lineLaw_endLeaving _ timedOut
  | becomeIdle hl =>
    intro hs
    obtain ⟨he, -, hn, hstaged⟩ := hs.noFrame_of_lineIs hl rfl
    exact State.lineLaw_of_noFrame he hstaged hn.becomeIdle
  | count recessive hc =>
    intro hs
    rcases hc with ⟨hl, rfl⟩ | ⟨hl, hne⟩
    · obtain ⟨he, hline, hn, hstaged⟩ := hs.noFrame_of_lineIs hl rfl
      exact State.lineLaw_of_noFrame he hstaged (hn.countSample (fun _ => rfl) (by simp [hline]))
    · obtain ⟨he, hline, hn, hstaged⟩ := hs.noFrame_of_lineIs hl rfl
      exact State.lineLaw_of_noFrame he hstaged (hn.countSample (by simp [hline]) (fun _ => hne))
  | beginReception hl =>
    intro hs
    obtain ⟨he, -, hn, hstaged⟩ := hs.noFrame_of_lineIs hl rfl
    exact State.lineLaw_of_noFrame he hstaged hn.beginReception
  | assemble recessive hl ha =>
    intro hs
    obtain ⟨he, hline, hn, hstaged⟩ := hs.noFrame_of_lineIs hl rfl
    exact State.lineLaw_of_noFrame he hstaged ((hn.countSample (by simp [hline]) (by simp [hline])).withAssembly _)
  | checkError hl => exact fun hs => hs.checkError hl
  | receive order contention bytes hl => exact fun hs => hs.receive hl order contention bytes
  | stage hc _ ih => exact fun hs => ih (hs.stage (State.enabled_of_canStage hc))
  | advance recessive ht hn => exact fun hs => hs.advance ht hn recessive
  | sentOk stagingFirst ht => exact fun _ => State.lineLaw_sentOk (State.isTransmitting_iff.1 ht).1 stagingFirst
  | loseContention bit ht => exact fun _ => State.lineLaw_loseContention (State.isTransmitting_iff.1 ht).1 bit
  | readbackFault element scoreFirst ht =>
    exact fun _ => State.lineLaw_readbackFault (State.isTransmitting_iff.1 ht).1 element scoreFirst

end Sys2Proof.Machine
end

section
/-! PROOFS. The law of the assembly buffer, and the three laws of the line. -/

namespace Sys2Proof.Machine

/-! ### The bytes stored so far -/

/-- The bytes stored are no more than the frame has, and the length is known after the sixth at the latest (R17). -/
def LengthLaw (bytes : List Byte) : Prop :=
  (∀ n, knownLength bytes = some n → bytes.length ≤ n) ∧ (knownLength bytes = none → bytes.length < 6)

section
variable {first : Byte} {rest : List Byte}

theorem lengthAt_append {bytes : List Byte} {i : Nat} (h : i < bytes.length) (more : List Byte) :
    lengthAt (bytes ++ more) i = lengthAt bytes i := by
  simp only [lengthAt, byteAt, List.getD_eq_getElem?_getD, List.getElem?_append_left h]

/-- A length once known stands (R17). -/
theorem knownLength_append {n : Nat} (h : knownLength (first :: rest) = some n) (more : List Byte) :
    knownLength (first :: (rest ++ more)) = some n := by
  have hlength : (first :: rest).length ≤ (first :: (rest ++ more)).length := by simp
  rcases kindOf_cases first with hk | hk | hk | hk | hk
  · rwa [knownLength_hello hk] at h ⊢
  · rwa [knownLength_control hk] at h ⊢
  · rw [knownLength_data hk, Option.ite_none_right_eq_some] at h ⊢
    exact ⟨h.1.trans hlength, by rw [← h.2, ← List.cons_append, lengthAt_append (by omega)]⟩
  · rw [knownLength_group hk, Option.ite_none_right_eq_some] at h ⊢
    exact ⟨h.1.trans hlength, by rw [← h.2, ← List.cons_append, lengthAt_append (by omega)]⟩
  · rw [knownLength_spare hk] at h
    cases h

/-- A frame whose header passes has at most 56 bytes after its contention field (R13, R18). -/
theorem knownLength_le {n : Nat} (hp : HeaderPasses first rest) (h : knownLength (first :: rest) = some n) : n ≤ 56 := by
  rcases kindOf_cases first with hk | hk | hk | hk | hk
  · rw [knownLength_hello hk, Option.some.injEq] at h
    omega
  · rw [knownLength_control hk, Option.some.injEq] at h
    omega
  · rw [knownLength_data hk, Option.ite_none_right_eq_some, Option.some.injEq] at h
    have := (headerPasses_data _ _ hk).1 hp h.1
    omega
  · rw [knownLength_group hk, Option.ite_none_right_eq_some, Option.some.injEq] at h
    have := (headerPasses_group _ _ hk).1 hp h.1
    omega
  · exact absurd hp.1 (by omega)

/-- Without a known length the frame is a DATA of fewer than six bytes or a GROUP of fewer than three (R17). -/
theorem length_of_knownLength_none (hp : kindOf first ≤ 5) (h : knownLength (first :: rest) = none) :
    kindOf first = 4 ∧ (first :: rest).length < 6 ∨ kindOf first = 5 ∧ (first :: rest).length < 3 := by
  rcases kindOf_cases first with hk | hk | hk | hk | hk
  · rw [knownLength_hello hk] at h
    cases h
  · rw [knownLength_control hk] at h
    cases h
  · rw [knownLength_data hk] at h
    exact .inl ⟨hk, by by_contra hl; rw [if_pos (by omega)] at h; cases h⟩
  · rw [knownLength_group hk] at h
    exact .inr ⟨hk, by by_contra hl; rw [if_pos (by omega)] at h; cases h⟩
  · exact absurd hp (by omega)

end

/-- One byte more keeps the length law, where the frame was not whole and the header still passes. -/
theorem LengthLaw.append {bytes : List Byte} (h : LengthLaw bytes) (hw : knownLength bytes ≠ some bytes.length) {b : Byte}
    {first : Byte} {rest : List Byte} (hb : bytes ++ [b] = first :: rest) (hp : HeaderPasses first rest) :
    LengthLaw (first :: rest) := by
  have hlength : (first :: rest).length = bytes.length + 1 := by rw [← hb]; simp
  refine ⟨fun n hn => ?_, fun hn => ?_⟩
  · cases bytes with
    | nil =>
      have := five_le_of_knownLength first rest hn
      simp only [List.length_nil] at hlength
      omega
    | cons f r =>
      obtain ⟨rfl, rfl⟩ : f = first ∧ r ++ [b] = rest := by simpa using hb
      cases hk : knownLength (f :: r) with
      | some m =>
        obtain rfl : m = n := Option.some.inj ((knownLength_append hk [b]).symm.trans hn)
        have hle := h.1 m hk
        have hne : m ≠ (f :: r).length := fun e => hw (e ▸ hk)
        omega
      | none =>
        rcases length_of_knownLength_none hp.1 hk with ⟨h4, hlt⟩ | ⟨-, hlt⟩
        · rw [knownLength_data h4, Option.ite_none_right_eq_some, Option.some.injEq] at hn
          omega
        · have := five_le_of_knownLength _ _ hn
          omega
  · have := length_of_knownLength_none hp.1 hn
    omega

/-! ### The law of the assembly buffer -/

/-- The law of the assembly buffer, as a law of the buffer (R17, R18). -/
structure Assembly.Law (a : Assembly) : Prop where
  bits : a.bits.length ≤ 7
  fresh : a.bits.length < 7 → a.bytes = [] ∧ a.tail = []
  bytes : a.bytes.length ≤ 56
  checks : storedBytesPass (contentionOfBits a.bits) a.bytes = true
  length : LengthLaw a.bytes
  tail : a.tail.length ≤ if phaseComplete a.bytes then 10 else 9

theorem State.assemblyLaw_iff {s : State} : s.AssemblyLaw ↔ s.liu.assembly.Law :=
  ⟨fun ⟨h1, h2, h3, h4, h5, h6, h7⟩ => ⟨h1, h2, h3, h4, ⟨h5, h6⟩, h7⟩,
    fun ⟨h1, h2, h3, h4, h5, h6⟩ => ⟨h1, h2, h3, h4, h5.1, h5.2, h6⟩⟩

theorem Assembly.law_bits {bits : List Bool} (h : bits.length ≤ 7) : Assembly.Law ⟨bits, [], []⟩ where
  bits := h
  fresh _ := ⟨rfl, rfl⟩
  bytes := Nat.zero_le 56
  checks := rfl
  length := ⟨nofun, fun _ => Nat.zero_lt_succ 5⟩
  tail := Nat.zero_le _

theorem LengthLaw.le_56 {bytes : List Byte} (h : LengthLaw bytes) {first : Byte} {rest : List Byte}
    (hb : bytes = first :: rest) (hp : HeaderPasses first rest) : bytes.length ≤ 56 := by
  cases hn : knownLength bytes with
  | none =>
    have := h.2 hn
    omega
  | some n =>
    have := h.1 n hn
    have := knownLength_le hp (hb ▸ hn)
    omega

/-- Each element that goes on keeps the law of the buffer (R17, R18). -/
theorem Assembly.Law.take {a a' : Assembly} (h : a.Law) {recessive : Bool} (ht : a.take recessive = .continues a') :
    a'.Law := by
  rcases a.take_cases recessive with ⟨hb, he⟩ | ⟨hb, hp, he⟩ | ⟨hb, hp, he⟩
  · obtain rfl := Reception.continues.inj (he.symm.trans ht)
    obtain ⟨hbytes, htail⟩ := h.fresh hb
    rw [hbytes, htail]
    exact Assembly.law_bits (by simp; omega)
  · rcases he with ⟨-, h10, he⟩ | ⟨-, -, he⟩ | ⟨-, he⟩
    · obtain rfl := Reception.continues.inj (he.symm.trans ht)
      refine { h with fresh := fun hb' => absurd hb' hb, tail := ?_ }
      rw [List.length_append, List.length_singleton, if_pos hp]
      omega
    · cases he.symm.trans ht
    · cases he.symm.trans ht
  · rcases he with ⟨-, -, he⟩ | ⟨h9, he⟩ | ⟨-, he | ⟨-, hpass, he⟩⟩
    · cases he.symm.trans ht
    · obtain rfl := Reception.continues.inj (he.symm.trans ht)
      refine { h with fresh := fun hb' => absurd hb' hb, tail := ?_ }
      rw [List.length_append, List.length_singleton, if_neg (by simp [hp])]
      omega
    · cases he.symm.trans ht
    · obtain rfl := Reception.continues.inj (he.symm.trans ht)
      obtain ⟨first, rest, hstored⟩ := List.exists_cons_of_ne_nil
        (show a.bytes ++ [byteOfBits (a.tail.drop 1)] ≠ [] by simp)
      rw [hstored] at hpass ⊢
      have hheader := ((storedBytesPass_iff first rest _).1 hpass).1
      have hw : knownLength a.bytes ≠ some a.bytes.length := fun e => by
        rw [phaseComplete_iff.2 e] at hp
        cases hp
      have hlength := h.length.append hw hstored hheader
      exact ⟨h.bits, fun hb' => absurd hb' hb, hlength.le_56 rfl hheader, hpass, hlength, Nat.zero_le _⟩

/-- A frame handed over has passed every check (R17, R18, R19). -/
theorem Assembly.law_received {c : BitVec 7} {phase : List Byte} (h : (receiveFrame c phase).isSome = true) :
    Assembly.Law ⟨contentionBits c, phase, []⟩ := by
  cases phase with
  | nil => cases h
  | cons first rest =>
    obtain ⟨⟨hheader, hknown⟩, hcrc⟩ := (receiveFrame_isSome_iff first rest c).1 h
    have hlength : LengthLaw (first :: rest) :=
      ⟨fun n hn => (Option.some.inj (hknown.symm.trans hn)).le, fun hn => nomatch hknown.symm.trans hn⟩
    refine ⟨le_refl 7, fun hb => absurd hb (lt_irrefl 7), hlength.le_56 rfl hheader, ?_, hlength, Nat.zero_le _⟩
    rw [contentionOfBits_contentionBits]
    exact (storedBytesPass_iff first rest c).2 ⟨hheader, fun _ => hcrc⟩

/-! ### The buffer after each effect -/

section
variable {s t : State}

theorem State.assemblyLaw_congr (h : t.liu.assembly = s.liu.assembly) (hs : s.AssemblyLaw) : t.AssemblyLaw := by
  rw [State.assemblyLaw_iff] at hs ⊢
  rwa [h]

theorem State.assemblyLaw_of_lineView (h : t.lineView = s.lineView) : s.AssemblyLaw → t.AssemblyLaw :=
  State.assemblyLaw_congr (congrArg Liu.assembly (State.liu_of_lineView h))

/-- A buffer with no byte in it keeps the law. -/
theorem State.assemblyLaw_of_bits {bits : List Bool} (h : s.liu.assembly = ⟨bits, [], []⟩) (hb : bits.length ≤ 7) :
    s.AssemblyLaw := by
  rw [State.assemblyLaw_iff, h]
  exact Assembly.law_bits hb

theorem State.AssemblyLaw.stage (h : s.AssemblyLaw) : s.stage.AssemblyLaw := by
  rcases s.stage_cases with hs | ⟨c, u, f, r, -, -, hs⟩
  · rwa [hs]
  · rw [hs]
    exact h

theorem State.AssemblyLaw.contentionOpportunity (h : s.AssemblyLaw) : s.contentionOpportunity.AssemblyLaw := by
  obtain ⟨c, hc⟩ := s.contentionOpportunity_eq
  rw [hc]
  exact h

theorem State.AssemblyLaw.finish (h : s.AssemblyLaw) : s.finish.AssemblyLaw :=
  State.assemblyLaw_congr (congrArg Liu.assembly s.finish_liu) h

theorem State.AssemblyLaw.chooseAndStage (h : s.AssemblyLaw) : s.chooseAndStage.AssemblyLaw := by
  rcases s.chooseAndStage_cases with hs | ⟨-, -, hs⟩
  · rwa [hs]
  · rw [hs]
    exact h.contentionOpportunity.stage

theorem State.AssemblyLaw.healthReport (h : s.AssemblyLaw) (r : HealthReport) : (s.healthReport r).AssemblyLaw :=
  State.assemblyLaw_of_lineView (s.lineView_healthReport r) h

theorem lineInvariant_assemblyLaw : LineInvariant State.AssemblyLaw :=
  ⟨State.assemblyLaw_of_lineView, State.AssemblyLaw.chooseAndStage⟩

theorem State.assemblyLaw_endLeaving (s : State) (timedOut : Bool) : (s.endLeaving timedOut).AssemblyLaw :=
  State.assemblyLaw_of_bits rfl (Nat.zero_le 7)

theorem State.AssemblyLaw.takeSentOk (h : s.AssemblyLaw) : s.takeSentOk.AssemblyLaw := by
  rcases s.takeSentOk_cases with hs | ⟨-, hs⟩
  · exact State.assemblyLaw_of_lineView hs h
  · rw [hs]
    exact s.assemblyLaw_endLeaving false

theorem State.AssemblyLaw.takeFailure (h : s.AssemblyLaw) : s.takeFailure.AssemblyLaw :=
  State.assemblyLaw_of_lineView s.lineView_takeFailure h

theorem State.AssemblyLaw.sentOk (h : s.AssemblyLaw) (stagingFirst : Bool) : (s.sentOk stagingFirst).AssemblyLaw := by
  have hcounted : ((s.onLiu Liu.sentOk).count .framesSent).AssemblyLaw := h
  cases stagingFirst with
  | true => exact hcounted.takeSentOk.chooseAndStage.healthReport .sentOk
  | false => exact (hcounted.healthReport .sentOk).takeSentOk

theorem State.AssemblyLaw.readbackFault (h : s.AssemblyLaw) (element : Nat) (scoreFirst : Bool) :
    (s.readbackFault element scoreFirst).AssemblyLaw := by
  have hcounted : ((s.onLiu (Liu.fault element)).count .readbackFaults).AssemblyLaw := h
  cases scoreFirst with
  | true => exact (hcounted.healthReport .readbackFault).takeFailure
  | false => exact hcounted.takeFailure.healthReport .readbackFault

/-- The bits a loser keeps are at most seven (R7). -/
theorem State.assemblyLaw_loseContention (s : State) (bit : Fin 7) : (s.loseContention bit).AssemblyLaw := by
  have hlost : ((s.onLiu (Liu.loseContention bit)).count .contentionLosses).AssemblyLaw := by
    refine State.assemblyLaw_of_bits rfl ?_
    cases s.liu.staging with
    | none => exact Nat.zero_le 7
    | some f =>
      have hkept : (keptBits f.contention bit).length ≤ 7 := by simp [keptBits]; omega
      exact hkept
  exact hlost.takeFailure

theorem State.assemblyLaw_checkError (s : State) : s.checkError.AssemblyLaw := by
  have hdiscarded : ((s.onLiu Liu.discardAssembly).count .checkErrors).AssemblyLaw :=
    State.assemblyLaw_of_bits rfl (Nat.zero_le 7)
  exact hdiscarded.healthReport .checkError

/-- The end of a frame under reception leaves the frame taken, or an empty buffer (R18, R19, R20). -/
theorem State.assemblyLaw_receive (s : State) (order : FrameOrder) (contention : BitVec 7) (bytes : List Byte) :
    (s.receive order contention bytes).AssemblyLaw := by
  simp only [State.receive]
  split
  · exact s.assemblyLaw_checkError
  next source f hreceived =>
    have hcomplete : (s.onLiu (Liu.completeFrame (assembledContention s.liu.assembly.bits contention)
        (assembledBytes s.liu.assembly bytes))).AssemblyLaw :=
      State.assemblyLaw_iff.2 (Assembly.law_received (by rw [hreceived]; rfl))
    split
    · exact lineInvariant_assemblyLaw.addressClash hcomplete order
    · exact lineInvariant_assemblyLaw.goodFrame hcomplete order _ _

end

/-- Every effect keeps the law of the assembly buffer. -/
theorem LineEffect.assemblyLaw {s u : State} (h : LineEffect s u) : s.AssemblyLaw → u.AssemblyLaw := by
  induction h with
  | none h => exact State.assemblyLaw_of_lineView h
  | release _ hu => exact State.assemblyLaw_congr (congrArg (fun v => v.liu.assembly) hu)
  | startRun _ hu => exact State.assemblyLaw_congr (congrArg (fun v => v.liu.assembly) hu)
  | softReset hu =>
    exact fun _ => State.assemblyLaw_of_lineView hu (State.assemblyLaw_of_bits (bits := []) rfl (Nat.zero_le 7))
  | endLeaving timedOut => exact fun _ => State.assemblyLaw_endLeaving _ timedOut
  | becomeIdle _ => exact id
  | count _ _ => exact id
  | beginReception _ => exact fun _ => State.assemblyLaw_of_bits (bits := []) rfl (Nat.zero_le 7)
  | assemble _ _ ha => exact fun hs => State.assemblyLaw_iff.2 ((State.assemblyLaw_iff.1 hs).take ha)
  | checkError _ => exact fun _ => State.assemblyLaw_checkError _
  | receive order contention bytes _ => exact fun _ => State.assemblyLaw_receive _ order contention bytes
  | stage _ _ ih => exact fun hs => ih hs.stage
  | advance _ _ _ => exact id
  | sentOk stagingFirst _ => exact fun hs => hs.sentOk stagingFirst
  | loseContention bit _ => exact fun _ => State.assemblyLaw_loseContention _ bit
  | readbackFault element scoreFirst _ => exact fun hs => hs.readbackFault element scoreFirst

/-! ### The three laws -/

/-- At RSTn's own events the part is at rest. -/
theorem State.laws_initial (own : Address) (phase : PortPhase) (low : Bool) (pending : List Instr)
    (inputs : List Input) {t : State}
    (ht : t = { State.initial own phase with inReset := low, pending := pending, inputs := inputs }) :
    t.LineLaw ∧ t.AssemblyLaw ∧ t.PresentedLaw := by
  subst ht
  exact ⟨State.lineLaw_of_disabled rfl rfl rfl rfl, State.assemblyLaw_of_bits rfl (Nat.zero_le 7), nofun⟩

/-- Whatever an event leaves, it keeps each of the three laws. -/
theorem EventLeaves.laws {s t : State} (h : EventLeaves s t) :
    (s.LineLaw → t.LineLaw) ∧ (s.AssemblyLaw → t.AssemblyLaw) ∧ (s.PresentedLaw → t.PresentedLaw) := by
  rcases h with rfl | ⟨u, hu, rfl⟩ | ⟨own, phase, low, ht⟩
  · exact ⟨id, id, id⟩
  · exact ⟨fun hs => (hu.lineLaw hs).finish, fun hs => (hu.assemblyLaw hs).finish, fun _ => u.finish_presentedLaw⟩
  · obtain ⟨h1, h2, h3⟩ := State.laws_initial _ _ _ _ _ ht
    exact ⟨fun _ => h1, fun _ => h2, fun _ => h3⟩

/-- Settles O54: a step takes an event on the state without its queue's front, which the laws do not look at. -/
theorem lineUnitAndPresentationAgree : Obligations.LineUnitAndPresentationAgree := by
  intro s t ht
  unfold step at ht
  split at ht
  next c rest _ =>
    obtain ⟨u, hu, hleaves⟩ := exec_eventLeaves c { s with pending := rest }
    obtain rfl := Host.Outcome.next.inj (hu.symm.trans ht)
    exact hleaves.laws
  next =>
    split at ht
    · obtain rfl := Host.Outcome.next.inj ht
      exact ⟨id, id, id⟩
    next i rest _ =>
      obtain ⟨u, hu, hleaves⟩ := takeInput_eventLeaves i { s with inputs := rest }
      obtain rfl := Host.Outcome.next.inj (hu.symm.trans ht)
      exact hleaves.laws

end Sys2Proof.Machine
end

section
/-! PROOFS. SENT_OK of a first send, and good frames that are taken no further. -/

namespace Sys2Proof.Machine

/-! ### SENT_OK of a first send -/

theorem Slot.isMarkedFor_iff {p : Station} {x : Slot} :
    x.isMarkedFor p = true ↔ ∃ m q, x = .sent m q true ∧ m.target = .data p := by
  cases x <;> simp [Slot.isMarkedFor, and_comm]

/-- The submission order list holds every SENT slot, so a marked slot of the peer is on it (R64, R91). -/
theorem Txs.anyMarked_iff {t : Txs} (ht : t.SlotLaw) (p : Station) :
    t.anyMarked p = true ↔ ∃ h m q, t.slot h = .sent m q true ∧ m.target = .data p := by
  have hmem : ∀ h, (t.slot h).isMarkedFor p = true → h ∈ t.order := fun h hm => by
    obtain ⟨m, q, hs, -⟩ := Slot.isMarkedFor_iff.1 hm
    exact ((ht.2.2 h).1).2 (by rw [hs]; rfl)
  simp only [Txs.anyMarked, List.any_eq_true, ← Slot.isMarkedFor_iff]
  exact ⟨fun ⟨h, _, hm⟩ => ⟨h, hm⟩, fun ⟨h, hm⟩ => ⟨h, hmem h hm, hm⟩⟩

/-- Two changes of one entry are one. -/
theorem State.onPeer_onPeer (s : State) (p : Station) (f g : PeerEntry → PeerEntry) :
    (s.onPeer p f).onPeer p g = s.onPeer p fun e => g (f e) := by
  simp [State.onPeer, State.onPen]

/-- A change of an entry is what it makes of the entry as it stands. -/
theorem State.onPeer_congr {s : State} {p : Station} {f g : PeerEntry → PeerEntry} (h : f (s.peer p) = g (s.peer p)) :
    s.onPeer p f = s.onPeer p g := by
  have hentry : f s.pen.peers[p] = g s.pen.peers[p] := h
  rw [State.onPeer, State.onPen, hentry]
  rfl

theorem State.onPeer_unchanged {s : State} {p : Station} {f : PeerEntry → PeerEntry} (h : f (s.peer p) = s.peer p) :
    s.onPeer p f = s := by
  have hentry : f s.pen.peers[p] = s.pen.peers[p] := h
  have hset : s.pen.peers.set p.val s.pen.peers[p] = s.pen.peers := Vector.set_getElem_self p.isLt
  rw [State.onPeer, State.onPen, hentry, hset]

/-- What the end of an outcome leaves: the slots given, the staging record cleared, and the entry given after the carrying
rule (R61, R109). -/
def State.outcomeLeft (v : State) (p : Station) (c : Carried) (txs : Txs) (e : PeerEntry) : State :=
  { v with txs := { txs with staged := none }, pen := { v.pen with peers := v.pen.peers.set p (e.carry c) } }

/-- The record of a first send names a slot that is still its message (R107). -/
def State.StandsAs (v : State) (p : Station) (c : Carried) (h : Handle) (m : Message) : Prop :=
  v.txs.slot h = .queued m ∧ m.target = .data p ∧ (v.peer p).sessionCount = c.sessionCount

theorem State.firstSendStands_iff {v : State} {p : Station} {c : Carried} {h : Handle} :
    v.firstSendStands h p c = true ↔ ∃ m, v.StandsAs p c h m := by
  simp only [State.firstSendStands, State.StandsAs, Bool.and_eq_true, beq_iff_eq]
  cases v.txs.slot h <;> simp [Slot.isQueuedTo]

/-- A first send whose record stands makes its slot SENT (R54, R107). -/
theorem State.firstSendOk_stands {v : State} {h : Handle} {p : Station} {q : Seq} {c : Carried} {m : Message}
    (hs : v.StandsAs p c h m) :
    (v.firstSendOk (some h) p q c).clearStaged
      = v.outcomeLeft p c { v.txs with slots := v.txs.slots.set h (.sent m q (v.txs.anyMarked p)) }
          { v.peer p with
            nextTxSeq := (v.peer p).nextTxSeq + 1
            ackTimer := if (v.peer p).ackTimer = 0 then v.cfg.ackTimeout else (v.peer p).ackTimer } := by
  have hstands := State.firstSendStands_iff.2 ⟨m, hs⟩
  simp only [State.firstSendOk, hstands, if_true, State.carry, State.onPeer_onPeer, State.onTxs, hs.1]
  rfl

/-- A first send whose record no longer stands changes no slot (R107). -/
theorem State.firstSendOk_fallen {v : State} {h : Option Handle} {p : Station} {q : Seq} {c : Carried}
    (hs : ∀ h' m, h = some h' → ¬v.StandsAs p c h' m) :
    (v.firstSendOk h p q c).clearStaged = v.outcomeLeft p c v.txs (v.peer p) := by
  cases h with
  | none => rfl
  | some h' =>
    have hstands : ¬v.firstSendStands h' p c = true := fun e => by
      obtain ⟨m, hm⟩ := State.firstSendStands_iff.1 e
      exact hs h' m rfl hm
    simp only [State.firstSendOk, hstands]
    rfl

theorem State.takeSentOk_firstSend {v : State} {h : Option Handle} {p : Station} {q : Seq} {c : Carried}
    (hv : v.txs.staged = some (.firstSend h p q c)) : v.takeSentOk = (v.firstSendOk h p q c).clearStaged := by
  rw [State.takeSentOk, hv]

/-- Settles O28: the outcome of a first send, in both orders of HMN's report. -/
theorem firstSendOutcome : Obligations.FirstSendOutcome := by
  refine ⟨fun t p ht => Txs.anyMarked_iff ht p, fun s => rfl, fun s h p q c hs => ?_⟩
  obtain ⟨hreset, ht, hstaged⟩ := hs
  intro stands done sent first
  have hfirst : first.txs.staged = some (.firstSend h p q c) :=
    (State.staged_of_lineView (s.sentCounted.lineView_healthReport .sentOk)).trans hstaged
  have hscore : s.sentOk false = (first.firstSendOk h p q c).clearStaged := State.takeSentOk_firstSend hfirst
  have hstaging : s.sentOk true
      = ((s.sentCounted.firstSendOk h p q c).clearStaged).chooseAndStage.healthReport .sentOk :=
    congrArg (fun v : State => v.chooseAndStage.healthReport .sentOk)
      (State.takeSentOk_firstSend (v := s.sentCounted) hstaged)
  refine ⟨fun h' m hh => ⟨fun hm => ?_, fun hm => ?_⟩, fun hm => ?_, fun hm => ?_⟩
  · refine event_leaves (exec_sentOk false s) hreset ht ?_
    rw [hscore, hh, State.firstSendOk_stands hm]
    rfl
  · refine event_leaves (exec_sentOk true s) hreset ht ?_
    rw [hstaging, hh, State.firstSendOk_stands hm]
    rfl
  · refine event_leaves (exec_sentOk false s) hreset ht ?_
    rw [hscore, State.firstSendOk_fallen hm]
    rfl
  · refine event_leaves (exec_sentOk true s) hreset ht ?_
    rw [hstaging, State.firstSendOk_fallen hm]
    rfl

/-! ### Good frames that are taken no further -/

/-- A frame of which no check fails is an address clash or a good frame (R19, R20). -/
theorem State.receive_some {s : State} {order : FrameOrder} {contention : BitVec 7} {bytes : List Byte}
    {source : Address} {f : FrameBody}
    (h : receiveFrame (assembledContention s.liu.assembly.bits contention) (assembledBytes s.liu.assembly bytes)
        = some (source, f)) :
    s.receive order contention bytes
      = if source = s.control.ownAddr then
          (s.onLiu (Liu.completeFrame (assembledContention s.liu.assembly.bits contention)
            (assembledBytes s.liu.assembly bytes))).addressClash order
        else (s.beforeRecord order contention bytes).takeRecord source f := by
  simp only [State.receive, h]
  split
  · rfl
  · cases order <;> rfl

theorem State.chooseAndStage_control (s : State) : s.chooseAndStage.control = s.control := by
  have hstage : ∀ t : State, t.stage.control = t.control := fun t => by
    rcases t.stage_cases with h | ⟨c, u, f, r, -, -, h⟩ <;> rw [h]
  rcases s.chooseAndStage_cases with h | ⟨-, -, h⟩
  · rw [h]
  · obtain ⟨c, hc⟩ := s.contentionOpportunity_eq
    rw [h, hstage, hc]

theorem State.chooseAndStage_isRunning (s : State) : s.chooseAndStage.isRunning = s.isRunning :=
  congrArg (fun c : Control => c.opState == .running) s.chooseAndStage_control

/-- Outside RUNNING the reports of a good frame leave the operating state (R128). -/
theorem State.beforeRecord_notRunning {s : State} (h : s.isRunning = false) (order : FrameOrder) (contention : BitVec 7)
    (bytes : List Byte) : (s.beforeRecord order contention bytes).isRunning = false := by
  have hreport : ∀ {t : State}, t.isRunning = false → (t.healthReport .goodFrame).isRunning = false := fun ht => by
    rwa [State.healthReport_notRunning ht]
  have hstage : ∀ {t : State}, t.isRunning = false → t.chooseAndStage.isRunning = false := fun ht => by
    rwa [State.chooseAndStage_isRunning]
  cases order with
  | recordFirst => exact hreport h
  | idleAfterScore => exact hstage (hreport h)
  | idleBeforeScore => exact hreport (hstage h)

/-- FCL takes a record no further outside RUNNING, and none from address 31 (R19, R21). -/
theorem State.takeRecord_ignored {s : State} {source : Address} {f : FrameBody}
    (h : s.isRunning = false ∨ source = 31) : s.takeRecord source f = s := by
  unfold State.takeRecord
  split
  next hr =>
    obtain rfl : source = 31 := h.resolve_left (by simp [hr])
    rfl
  next => rfl

theorem State.takeRecord_routes {s : State} {p : Station} {f : FrameBody} (h : s.isRunning = true) :
    s.takeRecord (stationAddress p) f = s.routeFrame p f := by
  have hstation : ∀ p : Station, stationOf (stationAddress p).toNat = some p := by decide
  simp only [State.takeRecord, h, if_true, hstation]

/-- The reports of an address clash (R20). -/
theorem State.reportClash_eq (v : State) :
    v.reportClash = if v.control.opState = .running then (v.raise .addressClash).healthReport .addressClash else v := by
  simp only [State.reportClash, State.isRunning, beq_iff_eq]

/-- Nothing is staged in IDLE without a candidate whose frame can be built. -/
theorem State.stage_of_not_canStage {s : State} (hidle : s.lineIdle = true) (hs : s.txs.staged = none)
    (h : s.canStage = false) : s.stage = s := by
  have hnone : s.txs.presented.bind s.buildFrame = none := by simpa [State.canStage, hidle, hs] using h
  rw [State.stage, hnone]

/-- What is chosen and staged at once is what CONTENTION_STARTED stages of the choice (R98, R131). -/
theorem State.contentionStarted_chooseAndStage {v : State} (h : v.OnLine .idle) (hs : v.txs.staged = none) :
    Leaves .contentionStarted { v with txs := { v.txs with presented := v.choose } } v.chooseAndStage := by
  have hopportunity : (v.lineIdle && v.txs.staged.isNone) = true := by rw [h.lineIdle, hs]; rfl
  have hchosen : v.contentionOpportunity = { v with txs := { v.txs with presented := v.choose } } := by
    rw [State.contentionOpportunity, if_pos hopportunity]
    rfl
  rw [State.chooseAndStage, if_pos hopportunity, ← hchosen]
  have hidle : v.contentionOpportunity.lineIdle = true := by rw [hchosen]; exact h.lineIdle
  have hstaged : v.contentionOpportunity.txs.staged = none := by rw [hchosen]; exact hs
  cases hc : v.contentionOpportunity.canStage with
  | true =>
    have hreset : v.contentionOpportunity.inReset = false := by rw [hchosen]; exact h.1
    exact event_leaves (exec_contentionStarted _) hreset hc rfl
  | false =>
    refine ⟨_, (exec_contentionStarted _).trans (event_ignored hc), ?_⟩
    rw [State.stage_of_not_canStage hidle hstaged hc]

theorem State.chooseAndStage_unchanged {v : State}
    (h : v.enabled = false ∨ v.liu.line ≠ .idle ∨ v.txs.staged ≠ none) : v.chooseAndStage = v := by
  rw [State.chooseAndStage, if_neg]
  simp only [State.lineIdle, Bool.and_eq_true, beq_iff_eq, Option.isNone_iff_eq_none]
  rintro ⟨⟨henabled, hline⟩, hstaged⟩
  rcases h with h | h | h
  · rw [henabled] at h
    cases h
  · exact h hline
  · exact h hstaged

/-- The liveness step of a frame for another station, where its epoch matches a SYNCING or LINKED peer (R44). -/
theorem State.overheard_live {s : State} {p : Station} {srcEpoch : Epoch} (h0 : srcEpoch ≠ 0)
    (hepoch : srcEpoch = (s.peer p).peerEpoch) (hlive : (s.peer p).isLive = true) :
    s.overheard p srcEpoch = s.onPeer p fun e => { e with silenceTimer := silenceLimit s.cfg } := by
  rw [State.overheard, if_neg h0, State.refreshIfMatching, if_pos hepoch, State.refresh]
  exact State.onPeer_congr (if_pos hlive)

theorem State.overheard_ignored {s : State} {p : Station} {srcEpoch : Epoch}
    (h : ¬(srcEpoch ≠ 0 ∧ srcEpoch = (s.peer p).peerEpoch ∧ (s.peer p).isLive = true)) : s.overheard p srcEpoch = s := by
  unfold State.overheard State.refreshIfMatching
  split
  · rfl
  next h0 =>
    split
    next hepoch => exact State.onPeer_unchanged (if_neg fun hlive => h ⟨h0, hepoch, hlive⟩)
    next => rfl

/-- A DATA or control frame to another station ends after the liveness step (R21, R44). -/
theorem State.routeFrame_overheard {s : State} {p : Station} {f : FrameBody} {dest : Address} {srcEpoch : Epoch}
    (hdest : dest ≠ s.control.ownAddr)
    (hf : (∃ k de a l, f = .control k dest srcEpoch de a l) ∨ ∃ de q a l payload, f = .data dest srcEpoch de q a l payload) :
    s.routeFrame p f = s.overheard p srcEpoch := by
  rcases hf with ⟨k, de, a, l, rfl⟩ | ⟨de, q, a, l, payload, rfl⟩
  · rw [State.routeFrame, if_neg hdest]
  · rw [State.routeFrame, if_neg hdest]

/-- Settles O39: frames taken no further, clashes, and frames to others, in each order of the line idle. -/
theorem framesNotForThisStationOnlyCount : Obligations.FramesNotForThisStationOnlyCount := by
  refine ⟨fun s order contention bytes source f h => ?_, fun v hreset => ⟨fun he hl hs => ?_, fun hv => ?_⟩,
    fun order contention bytes p f s u dest srcEpoch harrives hdest hf => ?_⟩
  · intro c phase hreceived idle clash reported counted
    have heffect := State.receive_some (order := order) hreceived
    have hgood := exec_goodFrame order contention bytes s
    refine ⟨fun hsource hno => event_leaves hgood h.1 h.lineIs ?_, fun hsource => event_leaves hgood h.1 h.lineIs ?_, ?_⟩
    · have hignored : (s.beforeRecord order contention bytes).isRunning = false ∨ source = 31 :=
        hno.imp_left fun hs => State.beforeRecord_notRunning (by simpa [State.isRunning] using hs) order contention bytes
      rw [heffect, if_neg hsource, State.takeRecord_ignored hignored]
    · have hreported : ∀ v : State, v.reportClash = reported v := State.reportClash_eq
      rw [heffect, if_pos hsource]
      cases order with
      | recordFirst => exact congrArg State.withoutOutputs (hreported clash)
      | idleAfterScore => exact congrArg (fun v : State => v.chooseAndStage.withoutOutputs) (hreported clash)
      | idleBeforeScore => exact congrArg State.withoutOutputs (hreported clash.chooseAndStage)
    · cases order <;> rfl
  · exact State.contentionStarted_chooseAndStage ⟨hreset, he, hl⟩ hs
  · exact State.chooseAndStage_unchanged hv
  · obtain ⟨hline, hreceived, hown, rfl, hrunning⟩ := harrives
    have heffect : s.receive order contention bytes = (s.beforeRecord order contention bytes).overheard p srcEpoch := by
      rw [State.receive_some hreceived, if_neg hown, State.takeRecord_routes hrunning,
        State.routeFrame_overheard hdest hf]
    refine ⟨fun hmatch => ?_, fun hno => ?_⟩
    · refine event_leaves (exec_goodFrame order contention bytes s) hline.1 hline.lineIs ?_
      rw [heffect, State.overheard_live hmatch.1 hmatch.2.1 hmatch.2.2]
      rfl
    · refine event_leaves (exec_goodFrame order contention bytes s) hline.1 hline.lineIs ?_
      rw [heffect, State.overheard_ignored hno]

end Sys2Proof.Machine
end

section
/-! PROOFS. What an event can do to the part, as a chain of changes: one change for each operation that the laws of the
control section, of the slots, of the sessions and of the store have to survive. -/

namespace Sys2Proof.Machine

/-! ### Operations before the grants or the notice that follow them -/

/-- A peer resynchronised, before the grant attempt (R32). -/
def State.resynchronised (p : Station) (epoch : Epoch) (s : State) : State :=
  (if (s.peer p).isLive then s.restartNoticed p else s).onPeer p fun e =>
    { e with
      peerEpoch := epoch
      state := .syncing
      openPending := true
      acceptPending := false
      joinTimer := s.cfg.ackTimeout
      silenceTimer := silenceLimit s.cfg }

theorem State.resynchronise_eq (s : State) (p : Station) (epoch : Epoch) :
    s.resynchronise p epoch = (s.resynchronised p epoch).grantAttempt := rfl

/-- A peer linked by its OPEN, before the notice and the grant attempt (R37). -/
def State.opened (p : Station) (srcEpoch : Epoch) (limit : Seq) (s : State) : State :=
  (s.restartNoticed p).onPeer p fun e =>
    { e with
      peerEpoch := srcEpoch
      heldLimit := limit
      state := .linked
      openPending := false
      acceptPending := true
      joinTimer := 0
      silenceTimer := silenceLimit s.cfg }

/-- The entry of a SYNCING peer linked by an ACCEPT (R39). -/
def PeerEntry.accepted (e : PeerEntry) : PeerEntry :=
  { e with state := .linked, retryCount := 0, joinTimer := 0, openPending := false }

/-! ### Changes -/

/-- One change of the part, with what is known of the state in which it comes. -/
inductive Change (s : State) : State → Prop
  | liu (f : Liu → Liu) : Change s (s.onLiu f)
  | hpt (f : Hpt → Hpt) : Change s (s.onHpt f)
  | score (n : Nat) (l : Level) : Change s (s.onHmn fun m => { m with score := n, level := l })
  | tick : Change s s.tick
  | present (c : Option Candidate) : Change s (s.onTxs fun t => { t with presented := c })
  | stage {c : Candidate} {u : BitVec 2} {f : FrameBody} {r : StagingRecord} (hs : s.txs.staged = none)
      (hc : s.choose = some c) (hb : s.buildFrame c = some (u, f, r)) :
      Change s (s.onTxs fun t => { t with staged := some r, presented := none })
  | helloSent {e : Epoch} (h : s.txs.staged = some (.hello e)) : Change s (s.helloOk e).clearStaged
  | leavingHelloFallen {e : Epoch} (h : s.txs.staged = some (.leavingHello e)) (ho : s.control.opState ≠ .leaving) :
      Change s s.clearStaged
  | controlSent {k : ControlKind} {p : Station} {c : Carried} (h : s.txs.staged = some (.control k p c)) :
      Change s (s.controlOk k p c).clearStaged
  | firstSent {h : Option Handle} {p : Station} {q : Seq} {c : Carried} (hs : s.txs.staged = some (.firstSend h p q c)) :
      Change s (s.firstSendOk h p q c).clearStaged
  | resent {h : Option Handle} {p : Station} {q : Seq} {c : Carried} (hs : s.txs.staged = some (.resend h p q c)) :
      Change s (s.resendOk h p q c).clearStaged
  | groupSent {h : Option Handle} (hs : s.txs.staged = some (.group h)) :
      Change s (s.onTxs (Txs.sendStagedGroup h)).clearStaged
  | failed : Change s s.takeFailure
  | submit {q : SubmitParams} {h : Handle} {target : Target} (hc : s.submitCheck q = .ok (h, target)) :
      Change s (s.onTxs (Txs.place h (q.message target)))
  | cancel {h : Handle} (hc : s.txs.cancelStatus h = .ok) : Change s (s.onTxs (Txs.complete .cancelled h))
  | releaseSlot : Change s (s.onTxs Txs.releaseHead)
  | releaseRecord (h : s.mst.delivery ≠ []) : Change s (s.onMst Mst.release)
  | group (p : Station) (tag : Byte) (payload : List Byte) : Change s (s.groupReceived p tag payload)
  | grant {p : Station} (h : s.nextGrant = some p) : Change s (s.grantTo p)
  | refresh {p : Station} (hr : s.isRunning = true) (hp : (s.peer p).isLive = true) :
      Change s (s.onPeer p fun e => { e with silenceTimer := silenceLimit s.cfg })
  | resynchronise {p : Station} {epoch : Epoch} (hr : s.isRunning = true) (hp : stationAddress p ≠ s.control.ownAddr)
      (he : epoch ≠ 0) : Change s (s.resynchronised p epoch)
  | openLink {p : Station} {epoch : Epoch} {limit : Seq} (hr : s.isRunning = true)
      (hp : stationAddress p ≠ s.control.ownAddr) (he : epoch ≠ 0) (hl : limit.toNat ≤ 15) :
      Change s (s.opened p epoch limit)
  | leave {p : Station} (hp : (s.peer p).isLive = true) : Change s (s.sessionEnd p .absent 0)
  | lose {p : Station} (hp : (s.peer p).isLive = true) : Change s (s.sessionEnd p .lost (s.peer p).peerEpoch)
  | forget {p : Station} (hp : (s.peer p).state = .lost) :
      Change s (s.onPeer p fun e => { e with state := .absent, peerEpoch := 0 })
  | ackLimit {p : Station} {a l : Seq} {t : State} (hp : (s.peer p).state = .linked) (ht : s.takeAckLimit p a l = some t) :
      Change s t
  | accept {p : Station} {a l : Seq} {t : State} (hp : (s.peer p).state = .syncing) (ht : s.takeAckLimit p a l = some t) :
      Change s (t.onPeer p PeerEntry.accepted)
  | seq {p : Station} (q : Seq) (payload : List Byte) (hp : (s.peer p).state = .linked) :
      Change s (s.takeSeq p q payload)
  | joinRetry {p : Station} (hp : (s.peer p).state = .syncing) (hn : (s.peer p).retryCount < s.cfg.maxRetries) :
      Change s (s.onPeer p fun e =>
        { e with retryCount := e.retryCount + 1, openPending := true, joinTimer := s.cfg.ackTimeout })
  | ackRetry {p : Station} (hp : (s.peer p).state = .linked) (ha : (s.peer p).ackTimer ≠ 0)
      (hn : (s.peer p).retryCount < s.cfg.maxRetries) :
      Change s ((s.onTxs (Txs.markSent p)).onPeer p fun e =>
        { e with retryCount := e.retryCount + 1, ackTimer := s.cfg.ackTimeout })
  | ackDelay {p : Station} (hp : (s.peer p).isLive = true) (ha : (s.peer p).ackDelayTimer ≠ 0) :
      Change s (s.ackDelayExpiry p)
  | hello (h : s.control.opState = .running) : Change s s.startHello
  | rejoin (h : s.control.opState = .detached) : Change s s.rejoin
  | detach (h : s.control.opState = .running) : Change s s.enterDetached
  | configure {r : RawRecord} (h : s.control.opState = .unconfigured)
      (hc : firstFailingCheck s.control.ownAddr r = none) : Change s (s.acceptConfig (configOf r))
  | start (h : s.control.opState = .ready) : Change s s.startRun
  | beginLeaving (h : s.control.opState.takesMessages = true) : Change s s.beginLeaving
  | endLeaving (timedOut : Bool) (h : s.control.opState = .leaving)
      (ht : timedOut = false → ∃ e, s.txs.staged = some (.leavingHello e)) : Change s (s.endLeaving timedOut)
  | softReset : Change s s.softReset

/-- A chain of changes. -/
abbrev Changes : State → State → Prop := Relation.ReflTransGen Change

theorem Change.chain {s t : State} (h : Change s t) : Changes s t := .single h

section
variable (s : State)

theorem State.changes_raise (k : NoticeKind) : Changes s (s.raise k) := (Change.hpt _).chain

theorem State.changes_count (c : CounterName) : Changes s (s.count c) := (Change.hpt _).chain

theorem State.changes_grantAttempt : Changes s s.grantAttempt :=
  grantLoop_induction (P := Changes s) (fun _ _ h hp => h.tail (.grant hp)) _ s .refl

theorem State.changes_contentionOpportunity : Changes s s.contentionOpportunity := by
  obtain ⟨c, h⟩ := s.contentionOpportunity_eq
  rw [h]
  exact (Change.present c).chain

theorem State.changes_finish : Changes s s.finish :=
  s.changes_contentionOpportunity.tail (.hpt fun t => { t with irqnLow := s.contentionOpportunity.irqCause })

theorem State.changes_chooseAndStage : Changes s s.chooseAndStage := by
  rcases s.chooseAndStage_cases with h | ⟨hidle, hs, h⟩
  · rw [h]
  have hchosen : s.contentionOpportunity = { s with txs := { s.txs with presented := s.choose } } := by
    rw [State.contentionOpportunity, if_pos (by rw [hidle, hs]; rfl)]
    rfl
  rw [h]
  rcases s.contentionOpportunity.stage_cases with hn | ⟨c, u, f, r, hc, hb, hn⟩
  · rw [hn]
    exact s.changes_contentionOpportunity
  · rw [hn, hchosen]
    rw [hchosen] at hc hb
    have hstaged := Change.stage hs (c := c) (u := u) (f := f) (r := r) hc hb
    exact hstaged.chain.tail (.liu fun l =>
      { l with line := .contending, staging := some (s.stagedCopy u f), matched := 0, ltxLow := true })

/-! ### Health -/

theorem State.changes_healthReport (r : HealthReport) : Changes s (s.healthReport r) := by
  have hscore : ∀ (t : State) (n : Nat) (l : Level),
      Changes t (t.onHmn fun m => { m with score := n, level := l }) := fun t n l => (Change.score n l).chain
  rcases s.healthReport_cases r with h | ⟨hrunning, scored, rfl, h⟩
  · rw [h]
  have hscored := hscore s (scoreAfter r s.hmn.score) s.hmn.level
  have hrunning : s.control.opState = .running := by simpa [State.isRunning] using hrunning
  rcases h with h | h | h | ⟨-, h⟩
  · rw [h]
    exact hscored
  · rw [h]
    exact (hscored.trans (hscore _ _ .guarded)).trans (State.changes_raise _ _)
  · rw [h]
    exact (hscored.trans (hscore _ _ .sound)).trans (State.changes_raise _ _)
  · rw [h]
    exact hscored.tail (.detach hrunning)

theorem State.changes_reportClash : Changes s s.reportClash := by
  unfold State.reportClash
  split
  · exact (s.changes_raise _).trans (State.changes_healthReport _ _)
  · exact .refl

/-! ### The outcomes of a staged frame -/

theorem State.changes_takeSentOk : Changes s s.takeSentOk := by
  unfold State.takeSentOk
  split
  next => exact .refl
  next e h => exact (Change.helloSent h).chain
  next e h =>
    split
    next ho => exact (Change.endLeaving false ho fun _ => ⟨e, h⟩).chain
    next ho => exact (Change.leavingHelloFallen h ho).chain
  next h => exact (Change.controlSent h).chain
  next h => exact (Change.firstSent h).chain
  next h => exact (Change.resent h).chain
  next h => exact (Change.groupSent h).chain

theorem State.changes_sentOk (stagingFirst : Bool) : Changes s (s.sentOk stagingFirst) := by
  have hcounted : Changes s ((s.onLiu Liu.sentOk).count .framesSent) := (Change.liu _).chain.tail (.hpt _)
  cases stagingFirst with
  | true =>
    exact ((hcounted.trans (State.changes_takeSentOk _)).trans (State.changes_chooseAndStage _)).trans
      (State.changes_healthReport _ _)
  | false => exact (hcounted.trans (State.changes_healthReport _ _)).trans (State.changes_takeSentOk _)

theorem State.changes_loseContention (bit : Fin 7) : Changes s (s.loseContention bit) :=
  ((Change.liu _).chain.tail (.hpt _)).tail .failed

theorem State.changes_readbackFault (element : Nat) (scoreFirst : Bool) :
    Changes s (s.readbackFault element scoreFirst) := by
  have hcounted : Changes s ((s.onLiu (Liu.fault element)).count .readbackFaults) := (Change.liu _).chain.tail (.hpt _)
  cases scoreFirst with
  | true => exact (hcounted.trans (State.changes_healthReport _ _)).tail .failed
  | false => exact (hcounted.tail .failed).trans (State.changes_healthReport _ _)

theorem State.changes_checkError : Changes s s.checkError :=
  ((Change.liu _).chain.tail (.hpt _)).trans (State.changes_healthReport _ _)

end

/-! ### Frames at FCL -/

section
variable {s : State} {p : Station}

theorem State.changes_losePeer (cause : LossCause) (hp : (s.peer p).isLive = true) : Changes s (s.losePeer p cause) :=
  ((Change.lose hp).chain.trans (State.changes_raise _ _)).trans (State.changes_grantAttempt _)

@[simp] theorem State.grantAttempt_control (s : State) : s.grantAttempt.control = s.control := by
  rw [State.grantAttempt_frame]

@[simp] theorem State.restartNoticed_control (s : State) (p : Station) : (s.restartNoticed p).control = s.control := by
  unfold State.restartNoticed
  split <;> rfl

@[simp] theorem State.resynchronise_control (s : State) (p : Station) (epoch : Epoch) :
    (s.resynchronise p epoch).control = s.control := by
  rw [State.resynchronise_eq, State.grantAttempt_control, State.resynchronised, State.onPeer_control]
  split <;> simp

@[simp] theorem State.openLink_control (s : State) (p : Station) (e : Epoch) (l : Seq) :
    (s.openLink p e l).control = s.control := by
  unfold State.openLink
  split
  · rfl
  · simp

@[simp] theorem State.openReceived_control (s : State) (p : Station) (se de : Epoch) (l : Seq) :
    (s.openReceived p se de l).control = s.control := by
  unfold State.openReceived
  split <;> simp

@[simp] theorem State.helloReceived_control (s : State) (p : Station) (epoch : Epoch) :
    (s.helloReceived p epoch).control = s.control := by
  unfold State.helloReceived
  split
  case h_3 => split <;> simp
  case h_4 => split <;> simp
  all_goals simp

theorem State.isRunning_congr {t : State} (h : t.control = s.control) : t.isRunning = s.isRunning := by
  rw [State.isRunning, h, State.isRunning]

theorem State.changes_refresh (hr : s.isRunning = true) : Changes s (s.refresh p) := by
  by_cases hp : (s.peer p).isLive = true
  · have hlive : s.refresh p = s.onPeer p fun e => { e with silenceTimer := silenceLimit s.cfg } :=
      State.onPeer_congr (if_pos hp)
    rw [hlive]
    exact (Change.refresh hr hp).chain
  · have hnone : s.refresh p = s := State.onPeer_unchanged (if_neg hp)
    rw [hnone]

theorem State.changes_refreshIfMatching (hr : s.isRunning = true) (epoch : Epoch) :
    Changes s (s.refreshIfMatching p epoch) := by
  unfold State.refreshIfMatching
  split
  · exact State.changes_refresh hr
  · exact .refl

@[simp] theorem State.refreshIfMatching_control (s : State) (p : Station) (epoch : Epoch) :
    (s.refreshIfMatching p epoch).control = s.control := by
  unfold State.refreshIfMatching
  split <;> rfl

theorem State.changes_leavingHelloReceived : Changes s (s.leavingHelloReceived p) := by
  have hends : (s.peer p).isLive = true →
      Changes s ((s.sessionEnd p .absent 0).raise (.peerLeft p)).grantAttempt := fun hp =>
    ((Change.leave hp).chain.trans (State.changes_raise _ _)).trans (State.changes_grantAttempt _)
  unfold State.leavingHelloReceived
  split
  next h => exact hends (by rw [PeerEntry.isLive, h]; rfl)
  next h => exact hends (by rw [PeerEntry.isLive, h]; rfl)
  next h => exact (Change.forget h).chain
  next => exact .refl
  next => exact .refl

theorem State.changes_groupReceived (tag : Byte) (payload : List Byte) :
    Changes s (s.groupReceived p tag payload) := (Change.group p tag payload).chain

theorem State.changes_creditReceived (se de : Epoch) (a l : Seq) : Changes s (s.creditReceived p se de a l) := by
  unfold State.creditReceived
  split
  next hc =>
    simp only [State.passesEpochTest, Bool.and_eq_true, beq_iff_eq] at hc
    split
    · exact s.changes_count _
    next ht => exact (Change.ackLimit hc.1 ht).chain
  next => exact s.changes_count _

/-- Ack and limit processing leaves the association state (R49). -/
theorem State.takeAckLimit_state {a l : Seq} {t : State} (ht : s.takeAckLimit p a l = some t) (q : Station) :
    (t.peer q).state = (s.peer q).state := by
  have hack : ∀ q, ((s.takeAck p a).peer q).state = (s.peer q).state := fun q => by
    simp only [State.takeAck]
    split
    · rfl
    · rw [State.peer_onPeer]
      split
      next h => subst h; rfl
      next => rfl
  unfold State.takeAckLimit at ht
  split at ht
  · cases ht
    rw [State.peer_onPeer]
    split
    next h =>
      subst h
      rw [← hack p]
      unfold PeerEntry.takeLimit
      split <;> rfl
    next => exact hack q
  · cases ht

theorem State.changes_dataReceived (se de : Epoch) (q a l : Seq) (payload : List Byte) :
    Changes s (s.dataReceived p se de q a l payload) := by
  unfold State.dataReceived
  split
  next hc =>
    simp only [State.passesEpochTest, Bool.and_eq_true, beq_iff_eq] at hc
    split
    · exact s.changes_count _
    next t ht =>
      exact (Change.ackLimit hc.1 ht).chain.tail (.seq q payload ((State.takeAckLimit_state ht p).trans hc.1))
  next => exact s.changes_count _

theorem PeerEntry.isLive_iff {e : PeerEntry} : e.isLive = true ↔ e.state = .syncing ∨ e.state = .linked := by
  simp [PeerEntry.isLive]

theorem State.changes_acceptReceived (se de : Epoch) (a l : Seq) : Changes s (s.acceptReceived p se de a l) := by
  unfold State.acceptReceived
  split
  next hc =>
    simp only [Bool.and_eq_true] at hc
    split
    · exact s.changes_count _
    next t ht =>
      split
      next hs =>
        exact ((Change.accept hs ht).chain.trans (State.changes_raise _ _)).trans (State.changes_grantAttempt _)
      next hs => exact (Change.ackLimit ((PeerEntry.isLive_iff.1 hc.1).resolve_left hs) ht).chain
  next => exact s.changes_count _

section
variable (hr : s.isRunning = true) (hp : stationAddress p ≠ s.control.ownAddr)
include hr hp

theorem State.changes_resynchronise {epoch : Epoch} (he : epoch ≠ 0) : Changes s (s.resynchronise p epoch) :=
  (Change.resynchronise hr hp he).chain.trans (State.changes_grantAttempt _)

theorem State.changes_helloReceived {epoch : Epoch} (he : epoch ≠ 0) : Changes s (s.helloReceived p epoch) := by
  have hsync := State.changes_resynchronise hr hp he
  unfold State.helloReceived
  split
  case h_3 => split <;> [exact .refl; exact hsync]
  case h_4 => split <;> [exact .refl; exact hsync]
  case h_5 => exact .refl
  all_goals exact hsync

theorem State.changes_openReceived {se : Epoch} (he : se ≠ 0) (de : Epoch) (l : Seq) :
    Changes s (s.openReceived p se de l) := by
  unfold State.openReceived State.openLink
  split
  · split
    · exact s.changes_count _
    next hl =>
      exact ((Change.openLink hr hp he (Nat.not_lt.1 hl)).chain.trans (State.changes_raise _ _)).trans
        (State.changes_grantAttempt _)
  · exact State.changes_resynchronise hr hp he

theorem State.changes_controlReceived (k : ControlKind) (se de : Epoch) (a l : Seq) :
    Changes s (s.controlReceived p k se de a l) := by
  unfold State.controlReceived
  split
  · exact s.changes_count _
  next he =>
    have hrefresh := State.changes_refreshIfMatching (p := p) hr se
    cases k with
    | openFrame =>
      refine (State.changes_openReceived hr hp he de l).trans (State.changes_refreshIfMatching ?_ se)
      rw [State.isRunning_congr (State.openReceived_control s p se de l), hr]
    | acceptFrame => exact hrefresh.trans (State.changes_acceptReceived se de a l)
    | creditFrame => exact hrefresh.trans (State.changes_creditReceived se de a l)

omit hp in
theorem State.changes_overheard (se : Epoch) : Changes s (s.overheard p se) := by
  unfold State.overheard
  split
  · exact .refl
  · exact State.changes_refreshIfMatching hr se

theorem State.changes_routeFrame (f : FrameBody) : Changes s (s.routeFrame p f) := by
  cases f with
  | group tag payload => exact (State.changes_refresh hr).trans (State.changes_groupReceived tag payload)
  | hello epoch leaving =>
    simp only [State.routeFrame]
    split
    · exact s.changes_count _
    next he =>
      split
      · exact State.changes_leavingHelloReceived
      · refine (State.changes_helloReceived hr hp he).trans (State.changes_refresh ?_)
        rw [State.isRunning_congr (State.helloReceived_control s p epoch), hr]
  | control k dest se de a l =>
    simp only [State.routeFrame]
    split
    · exact State.changes_controlReceived hr hp k se de a l
    · exact State.changes_overheard hr se
  | data dest se de q a l payload =>
    simp only [State.routeFrame]
    split
    · split
      · exact s.changes_count _
      · exact (State.changes_refreshIfMatching hr se).trans (State.changes_dataReceived se de q a l payload)
    · exact State.changes_overheard hr se

end

theorem stationAddress_of_stationOf {a : Address} {p : Station} (h : stationOf a.toNat = some p) :
    stationAddress p = a := by
  unfold stationOf at h
  split at h
  · cases h
    simp [stationAddress]
  · cases h

/-- A record of a frame from another station is taken as a chain of changes (R19, R21). -/
theorem State.changes_takeRecord {source : Address} (hs : source ≠ s.control.ownAddr) (f : FrameBody) :
    Changes s (s.takeRecord source f) := by
  unfold State.takeRecord
  split
  next hr =>
    split
    · exact .refl
    next p hp => exact State.changes_routeFrame hr (by rwa [stationAddress_of_stationOf hp]) f
  next => exact .refl

theorem State.changes_addressClash (s : State) (order : FrameOrder) : Changes s (s.addressClash order) := by
  have hcounted := s.changes_count .checkErrors
  cases order with
  | recordFirst => exact hcounted.trans (State.changes_reportClash _)
  | idleAfterScore => exact (hcounted.trans (State.changes_reportClash _)).trans (State.changes_chooseAndStage _)
  | idleBeforeScore => exact (hcounted.trans (State.changes_chooseAndStage _)).trans (State.changes_reportClash _)

@[simp] theorem State.withdrawPeer_control (s : State) (p : Station) : (s.withdrawPeer p).control = s.control := by
  rcases s.withdrawPeer_cases p with ⟨-, h⟩ | ⟨-, h⟩ | ⟨-, -, h⟩ <;> rw [h] <;> rfl

@[simp] theorem State.withdrawAll_control (s : State) : s.withdrawAll.control = s.control := by
  have hfold : ∀ (ps : List Station) (t : State), (ps.foldl State.withdrawPeer t).control = t.control := fun ps => by
    induction ps with
    | nil => exact fun t => rfl
    | cons p ps ih => exact fun t => (ih _).trans (t.withdrawPeer_control p)
  exact hfold _ s

/-- No report to HMN acts on the own address. -/
theorem State.healthReport_ownAddr (s : State) (r : HealthReport) :
    (s.healthReport r).control.ownAddr = s.control.ownAddr := by
  rcases s.healthReport_cases r with h | ⟨-, scored, rfl, h | h | h | ⟨-, h⟩⟩ <;> rw [h]
  · rfl
  · rfl
  · rfl
  · simp [State.enterDetached]

theorem State.changes_goodFrame (s : State) (order : FrameOrder) {source : Address} (hs : source ≠ s.control.ownAddr)
    (f : FrameBody) : Changes s (s.goodFrame order source f) := by
  have hcounted := s.changes_count .framesReceived
  have hreport : ∀ t : State, Changes t (t.healthReport .goodFrame) := fun t => t.changes_healthReport _
  cases order with
  | recordFirst =>
    refine (hcounted.trans (hreport _)).trans (State.changes_takeRecord ?_ f)
    rwa [State.healthReport_ownAddr]
  | idleAfterScore =>
    refine ((hcounted.trans (hreport _)).trans (State.changes_chooseAndStage _)).trans (State.changes_takeRecord ?_ f)
    rwa [State.chooseAndStage_control, State.healthReport_ownAddr]
  | idleBeforeScore =>
    refine ((hcounted.trans (State.changes_chooseAndStage _)).trans (hreport _)).trans (State.changes_takeRecord ?_ f)
    rwa [State.healthReport_ownAddr, State.chooseAndStage_control]

theorem State.changes_receive (s : State) (order : FrameOrder) (contention : BitVec 7) (bytes : List Byte) :
    Changes s (s.receive order contention bytes) := by
  simp only [State.receive]
  split
  · exact s.changes_checkError
  · split
    · exact (Change.liu _).chain.trans (State.changes_addressClash _ order)
    next hs =>
      exact (Change.liu _).chain.trans (State.changes_goodFrame (s.onLiu (Liu.completeFrame _ _)) order hs _)

/-! ### Expiries -/

theorem State.changes_joinExpiry (h : s.joinMayExpire p = true) : Changes s (s.joinExpiry p) := by
  simp only [State.joinMayExpire, Bool.and_eq_true, beq_iff_eq] at h
  unfold State.joinExpiry
  split
  next hn => exact (Change.joinRetry h.1.2 hn).chain
  next => exact State.changes_losePeer _ (PeerEntry.isLive_iff.2 (.inl h.1.2))

theorem State.changes_ackExpiry (h : s.ackMayExpire p = true) : Changes s (s.ackExpiry p) := by
  simp only [State.ackMayExpire, Bool.and_eq_true, beq_iff_eq, ranOut] at h
  unfold State.ackExpiry
  split
  next hn => exact (Change.ackRetry h.1.2 (by omega) hn).chain
  next => exact State.changes_losePeer _ (PeerEntry.isLive_iff.2 (.inr h.1.2))

end

/-! ### The host port -/

section
variable (s : State)

theorem State.changes_releaseMessage : Changes s s.releaseMessage := by
  unfold State.releaseMessage
  split
  next => exact .refl
  next h => exact (Change.releaseRecord (by simpa using h)).chain.trans (State.changes_grantAttempt _)

theorem State.changes_closePort (aborted : Bool) : Changes s (s.closePort aborted) := (Change.hpt _).chain

theorem State.changes_withHeld (held : Option Bool) : Changes s (s.withHeld held) := (Change.hpt _).chain

theorem State.changes_endTransaction : Changes s s.endTransaction := by
  have heffect : ∀ t : State, Changes t t.endEffect := fun t => by
    simp only [State.endEffect]
    split
    · exact t.changes_releaseMessage
    split
    · exact (Change.releaseSlot).chain
    split
    · exact (Change.hpt _).chain
    split
    · exact (Change.hpt _).chain
    split
    · exact (Change.hpt _).chain
    · exact .refl
  exact ((Change.hpt _).chain.trans (heffect _)).trans (State.changes_closePort _ _)

/-- What a judgement does to the part before its answer is fixed (R162). -/
theorem State.changes_judgementOf (c : HostCommand) (params : List Byte) :
    Changes s (judgementOf c params s).1 := by
  cases c with
  | configure =>
    simp only [judgementOf, judgeConfigure]
    split
    next h =>
      split
      next => exact .refl
      next hc => exact (Change.configure h hc).chain
    next => exact .refl
  | start =>
    simp only [judgementOf, judgeStart]
    split
    next h => exact (Change.start h).chain
    next => exact .refl
  | leave =>
    simp only [judgementOf, judgeLeave]
    split
    next h => exact (Change.beginLeaving h).chain
    next => exact .refl
  | reset => exact (Change.softReset).chain
  | submit =>
    simp only [judgementOf, judgeSubmit]
    split
    next => exact .refl
    next hc => exact (Change.submit hc).chain
  | cancel =>
    simp only [judgementOf, judgeCancel]
    split
    next => exact .refl
    next =>
      split
      next hc => exact (Change.cancel hc).chain
      next => exact .refl
  | readMessage =>
    simp only [judgementOf, judgeReadMessage]
    split <;> exact .refl
  | readCompletion =>
    simp only [judgementOf, judgeReadCompletion]
    split <;> exact .refl
  | readNotice =>
    simp only [judgementOf, judgeReadNotice]
    split <;> exact .refl
  | readPeer =>
    simp only [judgementOf, judgeReadPeer]
    split <;> exact .refl
  | readStatus => exact .refl
  | readCounters => exact (Change.hpt fun t => { t with port := { t.port with snapshot := some t.counters } }).chain
  | unknown => exact .refl

theorem State.changes_takeJudgement (c : HostCommand) (params : List Byte) :
    Changes s (s.takeJudgement c params (judgementOf c)) :=
  (s.changes_judgementOf c params).tail (.hpt fun t =>
    { t with port := t.port.judged c params (judgementOf c params s).2 })

theorem State.changes_runCommand (c : HostCommand) (params : List Byte) :
    Changes s (s.runCommand c params (judgementOf c)) := by
  simp only [State.runCommand]
  split
  · exact (Change.hpt _).chain
  · exact (s.changes_takeJudgement c _).tail (.hpt _)

theorem State.changes_clockByte (byte : Byte) : Changes s (s.clockByte byte) := by
  have hparams : ∀ c params, Changes s (s.takeParams c params) := fun c params => by
    unfold State.takeParams
    split
    · exact (Change.hpt _).chain
    · exact s.changes_takeJudgement c params
  unfold State.clockByte
  split
  · exact hparams _ _
  · split
    · exact .refl
    · exact hparams _ _
  · exact (Change.hpt _).chain
  · exact (Change.hpt _).chain
  all_goals exact .refl

theorem State.changes_clockRise (mosi : Bool) : Changes s (s.clockRise mosi) := by
  simp only [State.clockRise]
  split
  · exact (Change.hpt _).chain.tail (.hpt _)
  · exact ((Change.hpt _).chain.trans (State.changes_clockByte _ _)).tail (.hpt _)

end

/-! ### Every event -/

/-- The staging that may open an event, in a state where what is presented is still the choice of the event before (R6). -/
def State.Opens (s u : State) : Prop := u = s ∨ s.canStage = true ∧ u = s.stage

/-- Where what is presented is the choice, the staging that opens an event is one of the changes (R98). -/
theorem State.changes_stage {s : State} (hp : s.PresentedLaw) (hc : s.canStage = true) : Changes s s.stage := by
  simp only [State.canStage, Bool.and_eq_true, Option.isNone_iff_eq_none] at hc
  obtain ⟨⟨hidle, hs⟩, -⟩ := hc
  have hchosen := hp hidle hs
  rcases s.stage_cases with h | ⟨c, u, f, r, hpresented, hb, h⟩
  · rw [h]
  · rw [h]
    have hstaged := Change.stage hs (hchosen.symm.trans hpresented) hb
    exact hstaged.chain.tail (.liu fun l =>
      { l with line := .contending, staging := some (s.stagedCopy u f), matched := 0, ltxLow := true })

/-- What an effect leaves: a staging may open it, and changes follow. -/
def Affects (s t : State) : Prop := ∃ u, s.Opens u ∧ Changes u t

theorem Changes.affects {s t : State} (h : Changes s t) : Affects s t := ⟨s, .inl rfl, h⟩

theorem State.changes_sampleReadback (s : State) (recessive : Bool) (order : FrameOrder) :
    Changes s (s.sampleReadback recessive order) := by
  unfold State.sampleReadback
  split
  · exact .refl
  · split
    · split
      · exact (Change.liu _).chain
      · exact s.changes_sentOk _
    · split
      · exact s.changes_loseContention _
      · exact s.changes_readbackFault _ _

theorem State.affects_bitTime (s : State) (recessive : Bool) (order : FrameOrder) :
    Affects s (s.bitTime recessive order) := by
  unfold State.bitTime
  split
  · unfold State.sampleIdle
    split
    next hc => exact ⟨s.stage, .inr ⟨hc, rfl⟩, State.changes_sampleReadback _ _ _⟩
    next => split <;> exact (Change.liu _).chain.affects
  · exact (s.changes_sampleReadback _ _).affects
  · exact (s.changes_sampleReadback _ _).affects
  · unfold State.sampleReceiving
    split
    · exact (Change.liu _).chain.affects
    · exact s.changes_checkError.affects
    · exact (s.changes_receive _ _ _).affects
  · unfold State.sampleRecovering
    split <;> exact (Change.liu _).chain.affects

/-- What a command or an input leads to: what its effect leaves, or, at RSTn's own events, a state at its reset values. -/
def Leads (s t : State) : Prop :=
  Affects s t
    ∨ ∃ own phase low, t = { State.initial own phase with inReset := low, pending := s.pending, inputs := s.inputs }

/-- An event leads to what its effect leaves, with its finish, or to nothing. -/
theorem event_leads {r : Result} {reaches : State → Bool} {effect : State → State} {s t : State}
    (hr : r = event reaches effect s) (ht : r = .next t) (h : reaches s = true → Affects s (effect s)) : Leads s t := by
  rcases event_cases (hr.symm.trans ht) with ⟨-, hreaches, rfl⟩ | ⟨-, rfl⟩
  · obtain ⟨u, hu, hchain⟩ := h hreaches
    exact .inl ⟨u, hu, hchain.trans (State.changes_finish _)⟩
  · exact .inl (Changes.affects .refl)

theorem exec_leads {c : Instr} {s t : State} (ht : exec c s = .next t) : Leads s t := by
  have hcommand : ∀ (c : HostCommand) (params : List Byte),
      hostCommand c params (judgementOf c) s = .next t → Leads s t := fun c params ht =>
    event_leads rfl ht fun _ => (s.changes_runCommand c params).affects
  cases c with
  | pinReset =>
    cases ht
    exact .inr ⟨0, .waiting, true, rfl⟩
  | rstnRelease straps csnLow =>
    rw [exec_rstnRelease] at ht
    cases ht
    split
    · exact .inr ⟨straps, phaseAtRelease csnLow, false, rfl⟩
    · exact .inl (Changes.affects .refl)
  | timeStampTick => exact event_leads (exec_timeStampTick s) ht fun _ => Change.tick.chain.affects
  | transactionStart => exact event_leads (exec_transactionStart s) ht fun _ => (Change.hpt _).chain.affects
  | transactionEnd => exact event_leads (exec_transactionEnd s) ht fun _ => s.changes_endTransaction.affects
  | transactionCutShort => exact event_leads (exec_transactionCutShort s) ht fun _ => (Change.hpt _).chain.affects
  | configure params => exact hcommand .configure params ht
  | start => exact hcommand .start [] ht
  | leave => exact hcommand .leave [] ht
  | reset => exact hcommand .reset [] ht
  | submit params => exact hcommand .submit params ht
  | cancel handle => exact hcommand .cancel [handle] ht
  | readMessage => exact hcommand .readMessage [] ht
  | readCompletion => exact hcommand .readCompletion [] ht
  | readNotice => exact hcommand .readNotice [] ht
  | readPeer address => exact hcommand .readPeer [address] ht
  | readStatus => exact hcommand .readStatus [] ht
  | readCounters => exact hcommand .readCounters [] ht
  | unknownCommand code =>
    exact event_leads (exec_unknownCommand code s) ht fun _ => (s.changes_runCommand .unknown []).affects
  | lineIdle => exact event_leads (exec_lineIdle s) ht fun _ => (Change.liu _).chain.affects
  | contentionStarted =>
    exact event_leads (exec_contentionStarted s) ht fun h => ⟨s.stage, .inr ⟨h, rfl⟩, .refl⟩
  | sentOk stagingFirst => exact event_leads (exec_sentOk stagingFirst s) ht fun _ => (s.changes_sentOk _).affects
  | lostContention bit => exact event_leads (exec_lostContention bit s) ht fun _ => (s.changes_loseContention _).affects
  | readbackFault element scoreFirst =>
    exact event_leads (exec_readbackFault element scoreFirst s) ht fun _ => (s.changes_readbackFault _ _).affects
  | checkError => exact event_leads (exec_checkError s) ht fun _ => s.changes_checkError.affects
  | goodFrame order contention bytes =>
    exact event_leads (exec_goodFrame order contention bytes s) ht fun _ => (s.changes_receive _ _ _).affects
  | joinTimerExpiry p =>
    exact event_leads (exec_joinTimerExpiry p s) ht fun h => (State.changes_joinExpiry h).affects
  | silenceTimerExpiry p =>
    refine event_leads (exec_silenceTimerExpiry p s) ht fun h => (State.changes_losePeer _ ?_).affects
    exact (Bool.and_eq_true_iff.1 h).1
  | ackTimerExpiry p => exact event_leads (exec_ackTimerExpiry p s) ht fun h => (State.changes_ackExpiry h).affects
  | ackDelayExpiry p =>
    refine event_leads (exec_ackDelayExpiry p s) ht fun h => ?_
    simp only [State.ackDelayMayExpire, ranOut, Bool.and_eq_true, beq_iff_eq] at h
    exact (Change.ackDelay h.1 (by omega)).chain.affects
  | helloTimerExpiry =>
    refine event_leads (exec_helloTimerExpiry s) ht fun h => ?_
    simp only [State.helloMayExpire, State.isRunning, Bool.and_eq_true, beq_iff_eq] at h
    exact (Change.hello h.1).chain.affects
  | holdoffExpiry =>
    refine event_leads (exec_holdoffExpiry s) ht fun h => ?_
    simp only [State.holdoffMayExpire, Bool.and_eq_true, beq_iff_eq] at h
    exact (Change.rejoin h.1).chain.affects
  | leaveLimitExpiry =>
    refine event_leads (exec_leaveLimitExpiry s) ht fun h => ?_
    simp only [State.leaveLimitMayExpire, Bool.and_eq_true, beq_iff_eq] at h
    exact (Change.endLeaving true h.1 nofun).chain.affects
  | receptionStart => exact event_leads (exec_receptionStart s) ht fun _ => (Change.liu _).chain.affects
  | chipSelectRiseAfterReset =>
    exact event_leads (exec_chipSelectRiseAfterReset s) ht fun _ => (Change.hpt _).chain.affects

theorem takeInput_leads {i : Input} {s t : State} (ht : takeInput i s = .next t) : Leads s t := by
  cases i with
  | bitTime recessive order =>
    exact event_leads (takeInput_bitTime recessive order s) ht fun _ => s.affects_bitTime recessive order
  | sclkRise mosi => exact event_leads (takeInput_sclkRise mosi s) ht fun _ => (s.changes_clockRise mosi).affects
  | sclkFall => exact event_leads (takeInput_sclkFall s) ht fun _ => (s.changes_withHeld none).affects
  | mosiByte byte => exact event_leads (takeInput_mosiByte byte s) ht fun _ => (s.changes_clockByte byte).affects

/-- A step is an event on the state without its queue's front. -/
theorem step_leads {s t : State} (ht : step s = .next t) :
    ∃ pending inputs, Leads { s with pending := pending, inputs := inputs } t := by
  unfold step at ht
  split at ht
  next c rest _ => exact ⟨rest, s.inputs, exec_leads ht⟩
  next =>
    split at ht
    · cases ht
      exact ⟨s.pending, s.inputs, .inl (Changes.affects .refl)⟩
    next i rest _ => exact ⟨s.pending, rest, takeInput_leads ht⟩

/-- What a law that holds between two events asks for: it does not look at what waits, it holds at the reset values, every
change keeps it, and so does the staging that opens an event, of which something may be known from the event before. -/
structure StepInvariant (known P : State → Prop) : Prop where
  queues {s : State} (pending : List Instr) (inputs : List Input) : P s → P { s with pending := pending, inputs := inputs }
  reset (own : Address) (phase : PortPhase) (low : Bool) (pending : List Instr) (inputs : List Input) :
    P { State.initial own phase with inReset := low, pending := pending, inputs := inputs }
  stage {s : State} : known s → P s → s.canStage = true → P s.stage
  change {s t : State} : Change s t → P s → P t

section
variable {known P : State → Prop} (hP : StepInvariant known P) {s t : State}
include hP

theorem StepInvariant.changes (h : Changes s t) (hs : P s) : P t := by
  induction h with
  | refl => exact hs
  | tail _ hc ih => exact hP.change hc ih

theorem StepInvariant.step (ht : step s = .next t)
    (hknown : ∀ pending inputs, known { s with pending := pending, inputs := inputs }) (hs : P s) : P t := by
  obtain ⟨pending, inputs, ⟨u, rfl | ⟨hc, rfl⟩, hchain⟩ | ⟨own, phase, low, rfl⟩⟩ := step_leads ht
  · exact hP.changes hchain (hP.queues pending inputs hs)
  · exact hP.changes hchain (hP.stage (hknown pending inputs) (hP.queues pending inputs hs) hc)
  · exact hP.reset own phase low _ _

end

end Sys2Proof.Machine
end

section
/-! PROOFS. The laws of the control section and of the peer table. -/

namespace Sys2Proof.Machine

/-! ### What a change leaves of the control section -/

/-- The fields that the law of the control section looks at. -/
structure ControlView where
  control : Control
  helloTimer : Nat
  helloDue : Bool
  holdoff : Nat

/-- The view of a state. -/
def State.controlView (s : State) : ControlView := ⟨s.control, s.pen.helloTimer, s.pen.helloDue, s.hmn.holdoff⟩

/-- The law of the control section, as a law of the view (R35, R136, R140, R145, R150, R152, R155). -/
def ControlView.Law (v : ControlView) : Prop :=
  (v.control.config = none ↔ v.control.opState = .unconfigured)
    ∧ (v.control.epoch = 0 ↔ v.control.opState = .unconfigured)
    ∧ (∀ c ∈ v.control.config, recordInRange c ∧ v.control.ownAddr.toNat ≤ 30)
    ∧ (v.helloTimer ≠ 0 ↔ v.control.opState = .running) ∧ (v.holdoff ≠ 0 ↔ v.control.opState = .detached)
    ∧ (v.control.leaveLimit ≠ 0 ↔ v.control.opState = .leaving)
    ∧ (v.control.leavingHelloDue = true ↔ v.control.opState = .leaving)
    ∧ (v.helloDue = true → v.control.opState = .running)

theorem State.controlLaw_iff_view {s : State} : s.ControlLaw ↔ s.controlView.Law := Iff.rfl

theorem State.controlLaw_of_view {s t : State} (h : t.controlView = s.controlView) (hs : s.ControlLaw) : t.ControlLaw := by
  rw [State.controlLaw_iff_view, h]
  exact hs

section
variable (s : State)

@[simp] theorem State.controlView_onPeer (p : Station) (f : PeerEntry → PeerEntry) :
    (s.onPeer p f).controlView = s.controlView := rfl
@[simp] theorem State.controlView_onTxs (f : Txs → Txs) : (s.onTxs f).controlView = s.controlView := rfl
@[simp] theorem State.controlView_onMst (f : Mst → Mst) : (s.onMst f).controlView = s.controlView := rfl
@[simp] theorem State.controlView_onLiu (f : Liu → Liu) : (s.onLiu f).controlView = s.controlView := rfl
@[simp] theorem State.controlView_score (n : Nat) (l : Level) :
    (s.onHmn fun m => { m with score := n, level := l }).controlView = s.controlView := rfl
@[simp] theorem State.controlView_ackDelayExpiry (p : Station) : (s.ackDelayExpiry p).controlView = s.controlView := rfl
@[simp] theorem State.controlView_onHpt (f : Hpt → Hpt) : (s.onHpt f).controlView = s.controlView := rfl
@[simp] theorem State.controlView_count (c : CounterName) : (s.count c).controlView = s.controlView := rfl
@[simp] theorem State.controlView_raise (k : NoticeKind) : (s.raise k).controlView = s.controlView := rfl
@[simp] theorem State.controlView_clearStaged : s.clearStaged.controlView = s.controlView := rfl
@[simp] theorem State.controlView_grantTo (p : Station) : (s.grantTo p).controlView = s.controlView := rfl
@[simp] theorem State.controlView_sessionRestart (p : Station) : (s.sessionRestart p).controlView = s.controlView := rfl
@[simp] theorem State.controlView_sessionEnd (p : Station) (st : AssocState) (e : Epoch) :
    (s.sessionEnd p st e).controlView = s.controlView := rfl

@[simp] theorem State.controlView_restartNoticed (p : Station) : (s.restartNoticed p).controlView = s.controlView := by
  unfold State.restartNoticed
  split <;> simp

@[simp] theorem State.controlView_resynchronised (p : Station) (e : Epoch) :
    (s.resynchronised p e).controlView = s.controlView := by
  rw [State.resynchronised, State.controlView_onPeer]
  split <;> simp

@[simp] theorem State.controlView_opened (p : Station) (e : Epoch) (l : Seq) :
    (s.opened p e l).controlView = s.controlView := by
  simp [State.opened]

@[simp] theorem State.controlView_groupReceived (p : Station) (tag : Byte) (b : List Byte) :
    (s.groupReceived p tag b).controlView = s.controlView := by
  unfold State.groupReceived
  split
  · simp
  · split <;> simp

@[simp] theorem State.controlView_takeSeq (p : Station) (q : Seq) (b : List Byte) :
    (s.takeSeq p q b).controlView = s.controlView := by
  unfold State.takeSeq
  split <;> simp

theorem State.controlView_takeAckLimit {s t : State} {p : Station} {a l : Seq} (h : s.takeAckLimit p a l = some t) :
    t.controlView = s.controlView := by
  unfold State.takeAckLimit at h
  split at h
  · cases h
    simp only [State.controlView_onPeer, State.takeAck]
    split <;> rfl
  · cases h

@[simp] theorem State.controlView_firstSendOk (h : Option Handle) (p : Station) (q : Seq) (c : Carried) :
    (s.firstSendOk h p q c).controlView = s.controlView := by
  simp only [State.firstSendOk, State.carry, State.controlView_onPeer]
  split
  · rfl
  · split <;> rfl

@[simp] theorem State.controlView_resendOk (h : Option Handle) (p : Station) (q : Seq) (c : Carried) :
    (s.resendOk h p q c).controlView = s.controlView := by
  simp only [State.resendOk, State.carry, State.controlView_onPeer]
  split
  · rfl
  · split <;> rfl

@[simp] theorem State.controlView_controlOk (k : ControlKind) (p : Station) (c : Carried) :
    (s.controlOk k p c).controlView = s.controlView := rfl

@[simp] theorem State.controlView_takeFailure : s.takeFailure.controlView = s.controlView := by
  rw [State.takeFailure_eq]
  rfl

@[simp] theorem State.controlView_withdrawAll : s.withdrawAll.controlView = s.controlView := by
  have hpeer : ∀ (t : State) (p : Station), (t.withdrawPeer p).controlView = t.controlView := fun t p => by
    rcases t.withdrawPeer_cases p with ⟨-, h⟩ | ⟨-, h⟩ | ⟨-, -, h⟩ <;> simp [h]
  have hfold : ∀ (ps : List Station) (t : State),
      (ps.foldl State.withdrawPeer t).controlView = t.controlView := fun ps => by
    induction ps with
    | nil => exact fun t => rfl
    | cons p ps ih => exact fun t => (ih _).trans (hpeer t p)
  exact hfold _ s

end

/-! ### The law of the control section -/

theorem tickTimer_eq_zero {n : Nat} : tickTimer n = 0 ↔ n = 0 := by
  match n with
  | 0 => simp [tickTimer]
  | 1 => simp [tickTimer]
  | n + 2 => simp [tickTimer]

/-- A record that no check of CONFIGURE rejects is within its ranges (R145). -/
theorem recordInRange_configOf {own : Address} {r : RawRecord} (h : firstFailingCheck own r = none) :
    recordInRange (configOf r) ∧ own.toNat ≤ 30 := by
  simp only [firstFailingCheck, List.findIdx?_eq_none_iff, recordChecks, List.forall_mem_cons, beq_eq_false_iff_ne, ne_eq,
    Bool.not_eq_false, decide_eq_true_eq] at h
  obtain ⟨hown, -, hepoch, hquota, hheadroom, hackDelay, hackTimeout, hmaxRetries, hhello, hsilence, hholdoff, -⟩ := h
  exact ⟨⟨hepoch, hquota, hheadroom, hackDelay, hackTimeout, hmaxRetries, hhello, hsilence, hholdoff⟩, hown⟩

theorem nextEpoch_ne_zero (e : Epoch) : nextEpoch e ≠ 0 := by
  unfold nextEpoch
  split
  · decide
  next h => bv_omega

/-- A record in use is within its ranges. -/
theorem State.ControlLaw.inRange {s : State} (h : s.ControlLaw) (ho : s.control.opState ≠ .unconfigured) :
    recordInRange s.cfg := by
  obtain ⟨hconfig, -, hrange, -⟩ := h
  cases hc : s.control.config with
  | none => exact absurd (hconfig.1 hc) ho
  | some c =>
    have hcfg : s.cfg = c := by rw [State.cfg, hc]; rfl
    rw [hcfg]
    exact (hrange c (by rw [hc]; rfl)).1

theorem State.ControlLaw.helloInterval {s : State} (h : s.ControlLaw) (ho : s.control.opState ≠ .unconfigured) :
    s.cfg.helloInterval ≠ 0 := by
  obtain ⟨-, -, -, -, -, -, hrange, -⟩ := h.inRange ho
  omega

theorem State.ControlLaw.holdoff {s : State} (h : s.ControlLaw) (ho : s.control.opState ≠ .unconfigured) :
    s.cfg.holdoff ≠ 0 := by
  obtain ⟨-, -, -, -, -, -, -, -, hrange⟩ := h.inRange ho
  omega

/-! ### The view after each change of the operating state -/

section
variable (s : State)

theorem State.controlView_startHello :
    s.startHello.controlView = ⟨s.control, s.cfg.helloInterval, true, s.hmn.holdoff⟩ := rfl

theorem State.controlView_rejoin :
    s.rejoin.controlView
      = ⟨{ s.control with epoch := nextEpoch s.control.epoch, opState := .running }, s.cfg.helloInterval, true, 0⟩ := rfl

theorem State.controlView_acceptConfig (c : ConfigRecord) :
    (s.acceptConfig c).controlView
      = { s.controlView with control := { s.control with config := some c, epoch := c.epoch, opState := .ready } } := rfl

theorem State.controlView_startRun :
    s.startRun.controlView = ⟨{ s.control with opState := .running }, s.cfg.helloInterval, true, s.hmn.holdoff⟩ := by
  rw [State.startRun, State.controlView_startHello]
  rfl

theorem State.controlView_enterDetached :
    s.enterDetached.controlView = ⟨{ s.control with opState := .detached }, 0, false, s.cfg.holdoff⟩ := by
  have hcontrol : s.enterDetached.control = { s.control with opState := .detached } := by simp [State.enterDetached]
  rw [State.controlView, hcontrol]
  rfl

theorem State.controlView_beginLeaving :
    s.beginLeaving.controlView
      = ⟨{ s.control with opState := .leaving, leavingHelloDue := true, leaveLimit := s.cfg.helloInterval },
          0, false, 0⟩ := by
  have hview : ∀ t : State, t.controlView.holdoff = t.hmn.holdoff := fun _ => rfl
  have hholdoff : ∀ t : State, t.withdrawAll.hmn.holdoff = t.hmn.holdoff := fun t => by
    rw [← hview, ← hview, State.controlView_withdrawAll]
  simp [State.controlView, State.beginLeaving, hholdoff]

theorem State.controlView_endLeaving (timedOut : Bool) :
    (s.endLeaving timedOut).controlView
      = { s.controlView with
          control := { s.control with
            leaveLimit := 0, leavingHelloDue := false, epoch := nextEpoch s.control.epoch, opState := .ready } } := by
  cases timedOut <;> rfl

end

/-- Every change keeps the law of the control section. -/
theorem State.ControlLaw.change {s t : State} (h : Change s t) (hs : s.ControlLaw) : t.ControlLaw := by
  have hview := State.controlLaw_iff_view.1 hs
  cases h
  case ackLimit ht => exact State.controlLaw_of_view (State.controlView_takeAckLimit ht) hs
  case accept p a l u hp ht =>
    exact State.controlLaw_of_view ((u.controlView_onPeer p _).trans (State.controlView_takeAckLimit ht)) hs
  case tick => simpa [State.ControlLaw, State.tick, tickTimer_eq_zero] using hs
  case helloSent e h =>
    obtain ⟨h1, h2, h3, h4, h5, h6, h7, h8⟩ := hs
    unfold State.helloOk
    split
    · exact ⟨h1, h2, h3, h4, h5, h6, h7, nofun⟩
    · exact ⟨h1, h2, h3, h4, h5, h6, h7, h8⟩
  case hello ho =>
    have hinterval := hs.helloInterval (by rw [ho]; decide)
    rw [State.controlLaw_iff_view, State.controlView_startHello]
    simp_all [ControlView.Law, State.controlView]
  case rejoin ho =>
    have hinterval := hs.helloInterval (by rw [ho]; decide)
    have hepoch := nextEpoch_ne_zero s.control.epoch
    rw [State.controlLaw_iff_view, State.controlView_rejoin]
    simp_all [ControlView.Law, State.controlView]
  case detach ho =>
    have hholdoff := hs.holdoff (by rw [ho]; decide)
    rw [State.controlLaw_iff_view, State.controlView_enterDetached]
    simp_all [ControlView.Law, State.controlView]
  case configure r ho hc =>
    obtain ⟨hrange, hown⟩ := recordInRange_configOf hc
    have hepoch := hrange.1
    rw [State.controlLaw_iff_view, State.controlView_acceptConfig]
    simp_all [ControlView.Law, State.controlView]
  case start ho =>
    have hinterval := hs.helloInterval (by rw [ho]; decide)
    rw [State.controlLaw_iff_view, State.controlView_startRun]
    simp_all [ControlView.Law, State.controlView]
  case beginLeaving ho =>
    have hne : s.control.opState ≠ .unconfigured := fun e => by rw [e] at ho; cases ho
    have hinterval := hs.helloInterval hne
    rw [State.controlLaw_iff_view, State.controlView_beginLeaving]
    simp_all [ControlView.Law, State.controlView]
  case endLeaving timedOut ho ht =>
    have hepoch := nextEpoch_ne_zero s.control.epoch
    rw [State.controlLaw_iff_view, State.controlView_endLeaving]
    simp_all [ControlView.Law, State.controlView]
  case softReset =>
    obtain ⟨h1, h2, h3, -⟩ := hs
    have hepoch := nextEpoch_ne_zero s.control.epoch
    cases hc : s.control.config with
    | none => simp_all [State.ControlLaw, State.softReset, Hmn.cleared]
    | some c => simp_all [State.ControlLaw, State.softReset, Hmn.cleared]
  all_goals exact State.controlLaw_of_view (by simp) hs

theorem stepInvariant_controlLaw : StepInvariant (fun _ => True) State.ControlLaw where
  queues _ _ := id
  reset _ _ _ _ _ := ⟨by simp [State.initial], by simp [State.initial], nofun, by simp [State.initial],
    by simp [State.initial, Hmn.cleared], by simp [State.initial], by simp [State.initial], nofun⟩
  stage {s} _ hs _ := by
    rcases s.stage_cases with h | ⟨c, u, f, r, -, -, h⟩
    · rwa [h]
    · rw [h]
      exact hs
  change := State.ControlLaw.change

/-! ### The association states -/

/-- The fields that the law of the peer table looks at. -/
structure Associations where
  ownAddr : Address
  opState : OpState
  state : Station → AssocState

/-- The association states of a state. -/
def State.associations (s : State) : Associations := ⟨s.control.ownAddr, s.control.opState, fun p => (s.peer p).state⟩

/-- The law of the peer table, as a law of the association states (R24, R140). -/
def Associations.Law (v : Associations) : Prop :=
  (∀ p, v.state p = .self ↔ stationAddress p = v.ownAddr)
    ∧ (v.opState ≠ .running → ∀ p, v.state p = .absent ∨ v.state p = .self)

theorem State.peerLaw_iff {s : State} : s.PeerLaw ↔ s.associations.Law := by
  simp [State.PeerLaw, Associations.Law, State.associations, State.isRunning]

theorem State.peerLaw_of_associations {s t : State} (h : t.associations = s.associations) (hs : s.PeerLaw) : t.PeerLaw := by
  rw [State.peerLaw_iff, h]
  exact State.peerLaw_iff.1 hs

theorem State.ownAddr_of_associations {s t : State} (h : t.associations = s.associations) :
    t.control.ownAddr = s.control.ownAddr := congrArg Associations.ownAddr h

theorem State.isRunning_of_associations {s t : State} (h : t.associations = s.associations) :
    t.isRunning = s.isRunning := congrArg (fun v : Associations => v.opState == .running) h

/-! The operations on an entry that leave its association state. -/

@[simp] theorem PeerEntry.setAckPending_state (d : Nat) (e : PeerEntry) : (e.setAckPending d).state = e.state := by
  rcases e.setAckPending_cases d with ⟨-, h⟩ | ⟨-, -, h⟩ | ⟨-, -, -, h⟩ | ⟨-, -, -, h⟩ <;> rw [h]

@[simp] theorem PeerEntry.setGrantPending_state (d : Nat) (e : PeerEntry) : (e.setGrantPending d).state = e.state := by
  rcases e.setGrantPending_cases d with ⟨-, h⟩ | ⟨-, -, h⟩ | ⟨-, -, -, h⟩ | ⟨-, -, -, h⟩ <;> rw [h]

@[simp] theorem PeerEntry.granted_state (d : Nat) (e : PeerEntry) : (e.granted d).state = e.state := by
  rw [PeerEntry.granted_eq]

@[simp] theorem PeerEntry.restarted_state (d : Nat) (e : PeerEntry) : (e.restarted d).state = e.state := by
  simp only [PeerEntry.restarted]
  split <;> simp

@[simp] theorem PeerEntry.carry_state (c : Carried) (e : PeerEntry) : (e.carry c).state = e.state := by
  simp only [PeerEntry.carry]
  split <;> rfl

@[simp] theorem PeerEntry.controlDone_state (k : ControlKind) (c : Carried) (e : PeerEntry) :
    (e.controlDone k c).state = e.state := by
  unfold PeerEntry.controlDone
  split
  · cases k <;> rfl
  · rfl

section
variable (s : State)

@[simp] theorem State.associations_onLiu (f : Liu → Liu) : (s.onLiu f).associations = s.associations := rfl
@[simp] theorem State.associations_onTxs (f : Txs → Txs) : (s.onTxs f).associations = s.associations := rfl
@[simp] theorem State.associations_onMst (f : Mst → Mst) : (s.onMst f).associations = s.associations := rfl
@[simp] theorem State.associations_onHmn (f : Hmn → Hmn) : (s.onHmn f).associations = s.associations := rfl
@[simp] theorem State.associations_onHpt (f : Hpt → Hpt) : (s.onHpt f).associations = s.associations := rfl
@[simp] theorem State.associations_raise (k : NoticeKind) : (s.raise k).associations = s.associations := rfl
@[simp] theorem State.associations_count (c : CounterName) : (s.count c).associations = s.associations := rfl
@[simp] theorem State.associations_clearStaged : s.clearStaged.associations = s.associations := rfl
@[simp] theorem State.associations_onHello (n : Nat) (due : Bool) :
    (s.onPen fun m => { m with helloTimer := n, helloDue := due }).associations = s.associations := rfl
@[simp] theorem State.associations_onLeaving (due : Bool) (n : Nat) :
    (s.onControl fun k => { k with leavingHelloDue := due, leaveLimit := n }).associations = s.associations := rfl
@[simp] theorem State.associations_startHello : s.startHello.associations = s.associations := rfl

/-- A change of one entry, in the association states. -/
theorem State.associations_onPeer_eq (p : Station) (f : PeerEntry → PeerEntry) :
    (s.onPeer p f).associations
      = { s.associations with state := Function.update s.associations.state p (f (s.peer p)).state } := by
  simp only [State.associations, Associations.mk.injEq, State.onPeer_control, true_and]
  funext q
  rw [State.peer_onPeer, Function.update_apply]
  by_cases h : p = q
  · simp [h]
  · simp [h, Ne.symm h]

theorem State.associations_onPeer {s : State} {p : Station} {f : PeerEntry → PeerEntry}
    (h : (f (s.peer p)).state = (s.peer p).state) : (s.onPeer p f).associations = s.associations := by
  rw [State.associations_onPeer_eq, h]
  exact congrArg (fun st => { s.associations with state := st }) (Function.update_eq_self p s.associations.state)

@[simp] theorem State.associations_grantTo (p : Station) : (s.grantTo p).associations = s.associations := by
  rw [State.grantTo, State.associations_onMst, State.associations_onPeer (by simp)]

@[simp] theorem State.associations_sessionRestart (p : Station) :
    (s.sessionRestart p).associations = s.associations := by
  rw [State.sessionRestart, State.associations_onPeer (by simp), State.associations_onTxs]

@[simp] theorem State.associations_restartNoticed (p : Station) :
    (s.restartNoticed p).associations = s.associations := by
  unfold State.restartNoticed
  split <;> simp

@[simp] theorem State.associations_carry (p : Station) (c : Carried) : (s.carry p c).associations = s.associations := by
  rw [State.carry, State.associations_onPeer (by simp)]

@[simp] theorem State.associations_controlOk (k : ControlKind) (p : Station) (c : Carried) :
    (s.controlOk k p c).associations = s.associations := by
  rw [State.controlOk, State.associations_onTxs, State.associations_carry, State.associations_onPeer (by simp)]

@[simp] theorem State.associations_firstSendOk (h : Option Handle) (p : Station) (q : Seq) (c : Carried) :
    (s.firstSendOk h p q c).associations = s.associations := by
  simp only [State.firstSendOk, State.associations_carry]
  split
  · rfl
  · split
    · rw [State.associations_onPeer rfl, State.associations_onTxs]
    · rfl

@[simp] theorem State.associations_resendOk (h : Option Handle) (p : Station) (q : Seq) (c : Carried) :
    (s.resendOk h p q c).associations = s.associations := by
  simp only [State.resendOk, State.associations_carry]
  split
  · rfl
  · split <;> rfl

@[simp] theorem State.associations_helloOk (e : Epoch) : (s.helloOk e).associations = s.associations := by
  unfold State.helloOk
  split <;> rfl

@[simp] theorem State.associations_takeFailure : s.takeFailure.associations = s.associations := by
  rw [State.takeFailure_eq]
  rfl

@[simp] theorem State.associations_groupReceived (p : Station) (tag : Byte) (b : List Byte) :
    (s.groupReceived p tag b).associations = s.associations := by
  unfold State.groupReceived
  split
  · simp
  · split <;> simp

@[simp] theorem State.associations_takeSeq (p : Station) (q : Seq) (b : List Byte) :
    (s.takeSeq p q b).associations = s.associations := by
  unfold State.takeSeq
  split
  · rw [State.associations_onPeer (by simp), State.associations_onMst]
  · simp
  · rw [State.associations_onPeer (by simp), State.associations_count]
  · rw [State.associations_onPeer (by simp), State.associations_count]

theorem mapPeers_getElem (f : PeerEntry → PeerEntry) (v : Vector PeerEntry 31) (p : Station) :
    (mapPeers f v)[p] = f v[p] := by
  simp [mapPeers]

/-- One TU passes at every entry (R46, R68). -/
theorem State.peer_tick (p : Station) : s.tick.peer p = (s.peer p).tick s.timersHeld := mapPeers_getElem _ _ p

@[simp] theorem State.associations_tick : s.tick.associations = s.associations := by
  simp only [State.associations, State.peer_tick]
  rfl

end

theorem State.associations_takeAckLimit {s t : State} {p : Station} {a l : Seq} (h : s.takeAckLimit p a l = some t) :
    t.associations = s.associations := by
  have hcontrol : t.control = s.control := congrArg ControlView.control (State.controlView_takeAckLimit h)
  simp only [State.associations, State.takeAckLimit_state h, hcontrol]

/-! ### The withdrawal of every peer -/

/-- What a withdrawal makes of an entry (R31, R133, R150). -/
def PeerEntry.withdrawn (e : PeerEntry) : PeerEntry :=
  if e.isLive then { PeerEntry.absentEntry with sessionCount := e.sessionCount + 1 }
  else if e.state = .lost then { e with state := .absent, peerEpoch := 0 }
  else e

theorem PeerEntry.withdrawn_state (e : PeerEntry) :
    e.withdrawn.state = if e.state = .self then .self else .absent := by
  unfold PeerEntry.withdrawn PeerEntry.isLive
  cases h : e.state <;> simp [PeerEntry.absentEntry, h]

theorem State.peer_withdrawPeer (s : State) (p q : Station) :
    (s.withdrawPeer p).peer q = if p = q then (s.peer p).withdrawn else s.peer q := by
  unfold State.withdrawPeer PeerEntry.withdrawn
  split
  · rw [State.sessionEnd_eq, State.peer_onPeer]
    rfl
  · split
    · rw [State.peer_onPeer]
    · split
      next h => rw [h]
      next => rfl

/-- A withdrawal of every peer withdraws each entry (R133, R150). -/
theorem State.peer_withdrawAll (s : State) (q : Station) : s.withdrawAll.peer q = (s.peer q).withdrawn := by
  have hfold : ∀ (ps : List Station) (t : State), ps.Nodup →
      (ps.foldl State.withdrawPeer t).peer q = if q ∈ ps then (t.peer q).withdrawn else t.peer q := fun ps => by
    induction ps with
    | nil => simp
    | cons p ps ih =>
      intro t hn
      rw [List.nodup_cons] at hn
      rw [List.foldl_cons, ih _ hn.2, State.peer_withdrawPeer]
      by_cases hq : p = q
      · subst hq
        simp [hn.1]
      · simp [hq, Ne.symm hq]
  rw [State.withdrawAll, hfold stations s (List.nodup_finRange 31), if_pos (show q ∈ stations from List.mem_finRange q)]

theorem State.associations_withdrawAll (s : State) :
    s.withdrawAll.associations
      = { s.associations with state := fun p => if (s.peer p).state = .self then .self else .absent } := by
  simp only [State.associations, State.peer_withdrawAll, PeerEntry.withdrawn_state, State.withdrawAll_control]

/-! ### The law of the peer table -/

/-- The entry of another station takes any state in RUNNING, and ABSENT in every operating state. -/
theorem State.PeerLaw.onPeer {s : State} (hs : s.PeerLaw) {p : Station} {f : PeerEntry → PeerEntry}
    (hp : stationAddress p ≠ s.control.ownAddr) (hself : (f (s.peer p)).state ≠ .self)
    (hr : s.isRunning = true ∨ (f (s.peer p)).state = .absent) : (s.onPeer p f).PeerLaw := by
  obtain ⟨hs1, hs2⟩ := hs
  refine ⟨fun q => ?_, fun hn q => ?_⟩
  · rw [State.peer_onPeer]
    split
    next h => exact h ▸ iff_of_false hself hp
    next => exact hs1 q
  · rw [State.peer_onPeer]
    split
    next =>
      have hnot : s.isRunning = false := hn
      exact .inl (hr.resolve_left (by simp [hnot]))
    next => exact hs2 hn q

theorem State.PeerLaw.notOwn {s : State} (hs : s.PeerLaw) {p : Station} (hp : (s.peer p).state ≠ .self) :
    stationAddress p ≠ s.control.ownAddr := fun h => hp ((hs.1 p).2 h)

theorem State.PeerLaw.running {s : State} (hs : s.PeerLaw) {p : Station} (hp : (s.peer p).isLive = true) :
    s.isRunning = true := by
  by_contra h
  rw [PeerEntry.isLive_iff] at hp
  rcases hs.2 (by simpa using h) p with h | h <;> simp [h] at hp

theorem PeerEntry.ne_self_of_isLive {e : PeerEntry} (h : e.isLive = true) : e.state ≠ .self := fun hs => by
  rw [PeerEntry.isLive, hs] at h
  cases h

/-- A new operating state that is RUNNING if the old one was keeps the law. -/
theorem State.PeerLaw.opState {s t : State} (hs : s.PeerLaw) {o : OpState}
    (ht : t.associations = { s.associations with opState := o }) (ho : o = .running ∨ s.control.opState ≠ .running) :
    t.PeerLaw := by
  rw [State.peerLaw_iff] at hs ⊢
  rw [ht]
  exact ⟨hs.1, fun hn => hs.2 (ho.resolve_left hn)⟩

/-- The withdrawal of every peer lets the part leave RUNNING. -/
theorem State.PeerLaw.withdrawn {s t : State} (hs : s.PeerLaw) {o : OpState}
    (ht : t.associations = ⟨s.control.ownAddr, o, fun p => if (s.peer p).state = .self then .self else .absent⟩) :
    t.PeerLaw := by
  rw [State.peerLaw_iff, ht]
  refine ⟨fun p => ?_, fun _ p => ?_⟩
  · rw [← hs.1 p]
    by_cases h : (s.peer p).state = .self <;> simp [h]
  · by_cases h : (s.peer p).state = .self <;> simp [h]

theorem State.peerLaw_initial {s : State} (h : s.pen.peers = initialPeers s.control.ownAddr) : s.PeerLaw := by
  have hpeer : ∀ p, (s.peer p).state = if stationAddress p = s.control.ownAddr then .self else .absent := fun p => by
    have haddress : stationAddress p = s.control.ownAddr ↔ p.val = s.control.ownAddr.toNat := by
      rw [← BitVec.toNat_inj, stationAddress, BitVec.toNat_ofNat, Nat.mod_eq_of_lt (by omega)]
    simp only [State.peer, h, initialPeers, haddress]
    split
    next hown =>
      by_cases hp : p.val = s.control.ownAddr.toNat
      · simp [hp, PeerEntry.selfEntry]
      · rw [if_neg hp]
        simp [Vector.getElem_set_ne, Ne.symm hp, PeerEntry.absentEntry]
    next hown =>
      rw [if_neg (by omega)]
      simp [PeerEntry.absentEntry]
  refine ⟨fun p => ?_, fun _ p => ?_⟩
  · rw [hpeer]
    split <;> simp_all
  · rw [hpeer]
    split <;> simp

theorem State.associations_enterDetached (s : State) :
    s.enterDetached.associations
      = ⟨s.control.ownAddr, .detached, fun p => if (s.peer p).state = .self then .self else .absent⟩ := by
  simp only [State.enterDetached, State.associations_raise, State.associations_onHmn, State.associations_onHello,
    State.associations_withdrawAll]
  rfl

theorem State.associations_beginLeaving (s : State) :
    s.beginLeaving.associations
      = ⟨s.control.ownAddr, .leaving, fun p => if (s.peer p).state = .self then .self else .absent⟩ := by
  simp only [State.beginLeaving, State.associations_onLeaving, State.associations_onHello, State.associations_withdrawAll]
  rfl

/-- Every change keeps the law of the peer table. -/
theorem State.PeerLaw.change {s t : State} (h : Change s t) (hs : s.PeerLaw) : t.PeerLaw := by
  cases h
  case ackLimit ht => exact State.peerLaw_of_associations (State.associations_takeAckLimit ht) hs
  case accept p a l u hp ht =>
    have hu := State.peerLaw_of_associations (State.associations_takeAckLimit ht) hs
    have hstate := State.takeAckLimit_state ht p
    have hlive : (u.peer p).isLive = true := PeerEntry.isLive_iff.2 (.inl (hstate.trans hp))
    exact hu.onPeer (hu.notOwn (PeerEntry.ne_self_of_isLive hlive)) nofun (.inl (hu.running hlive))
  case refresh => exact State.peerLaw_of_associations (State.associations_onPeer rfl) hs
  case ackDelay => exact State.peerLaw_of_associations (State.associations_onPeer rfl) hs
  case joinRetry => exact State.peerLaw_of_associations (State.associations_onPeer rfl) hs
  case ackRetry =>
    exact State.peerLaw_of_associations ((State.associations_onPeer rfl).trans (State.associations_onTxs _ _)) hs
  case resynchronise p e hr hp he =>
    have hbefore : (if (s.peer p).isLive then s.restartNoticed p else s).associations = s.associations := by
      split <;> simp
    exact (State.peerLaw_of_associations hbefore hs).onPeer (State.ownAddr_of_associations hbefore ▸ hp) nofun
      (.inl ((State.isRunning_of_associations hbefore).trans hr))
  case openLink p e l hr hp he hl =>
    have hbefore := s.associations_restartNoticed p
    exact (State.peerLaw_of_associations hbefore hs).onPeer (State.ownAddr_of_associations hbefore ▸ hp) nofun
      (.inl ((State.isRunning_of_associations hbefore).trans hr))
  case leave p hp =>
    exact State.PeerLaw.onPeer (s := s.onTxs _) hs (hs.notOwn (PeerEntry.ne_self_of_isLive hp)) nofun (.inr rfl)
  case lose p hp =>
    exact State.PeerLaw.onPeer (s := s.onTxs _) hs (hs.notOwn (PeerEntry.ne_self_of_isLive hp)) nofun
      (.inl (hs.running hp))
  case forget p hp => exact hs.onPeer (hs.notOwn (by rw [hp]; decide)) nofun (.inr rfl)
  case rejoin ho => exact hs.opState (o := .running) rfl (.inl rfl)
  case detach => exact hs.withdrawn s.associations_enterDetached
  case configure r ho hc => exact hs.opState (o := .ready) rfl (.inr (by rw [ho]; decide))
  case start => exact hs.opState (o := .running) rfl (.inl rfl)
  case beginLeaving => exact hs.withdrawn s.associations_beginLeaving
  case endLeaving timedOut ho ht =>
    refine hs.opState (o := .ready) ?_ (.inr (by rw [ho]; decide))
    cases timedOut <;> rfl
  case softReset => exact State.peerLaw_initial rfl
  all_goals exact State.peerLaw_of_associations (by simp) hs

theorem stepInvariant_peerLaw : StepInvariant (fun _ => True) State.PeerLaw where
  queues _ _ := id
  reset _ _ _ _ _ := State.peerLaw_initial rfl
  stage {s} _ hs _ := by
    rcases s.stage_cases with h | ⟨c, u, f, r, -, -, h⟩
    · rwa [h]
    · rw [h]
      exact hs
  change := State.PeerLaw.change

/-- Settles O53: both laws are kept by every change that an event is made of. -/
theorem operatingStatesStayConsistent : Obligations.OperatingStatesStayConsistent := fun _ _ ht =>
  ⟨stepInvariant_controlLaw.step ht fun _ _ => trivial, stepInvariant_peerLaw.step ht fun _ _ => trivial⟩

end Sys2Proof.Machine
end

section
/-! PROOFS. The law of the transmit slots: the submission order list and the completion queue hold each slot where it
belongs (R90, R91). -/

namespace Sys2Proof.Machine

/-! ### Slots after a completion and under a mark -/

section
variable (x : Slot)

@[simp] theorem Slot.isOpen_completed (o : SlotOutcome) : (x.completed o).isOpen = false := by cases x <;> rfl
@[simp] theorem Slot.isComplete_completed (o : SlotOutcome) :
    (x.completed o).isComplete = (x.isOpen || x.isComplete) := by cases x <;> rfl
@[simp] theorem Slot.isFree_completed (o : SlotOutcome) : (x.completed o).isFree = x.isFree := by cases x <;> rfl
@[simp] theorem Slot.isQueued_completed (o : SlotOutcome) : (x.completed o).isQueued = false := by cases x <;> rfl
@[simp] theorem Slot.isQueuedTo_completed (o : SlotOutcome) (p : Station) : (x.completed o).isQueuedTo p = false := by
  cases x <;> rfl
@[simp] theorem Slot.isSentTo_completed (o : SlotOutcome) (p : Station) : (x.completed o).isSentTo p = false := by
  cases x <;> rfl
@[simp] theorem Slot.isSentAs_completed (o : SlotOutcome) (p : Station) (q : Seq) :
    (x.completed o).isSentAs p q = false := by
  cases x <;> rfl

@[simp] theorem Slot.isOpen_withMark (b : Bool) : (x.withMark b).isOpen = x.isOpen := by cases x <;> rfl
@[simp] theorem Slot.isComplete_withMark (b : Bool) : (x.withMark b).isComplete = x.isComplete := by cases x <;> rfl
@[simp] theorem Slot.isFree_withMark (b : Bool) : (x.withMark b).isFree = x.isFree := by cases x <;> rfl
@[simp] theorem Slot.isQueued_withMark (b : Bool) : (x.withMark b).isQueued = x.isQueued := by cases x <;> rfl
@[simp] theorem Slot.isQueuedTo_withMark (b : Bool) (p : Station) : (x.withMark b).isQueuedTo p = x.isQueuedTo p := by
  cases x <;> rfl
@[simp] theorem Slot.isSentTo_withMark (b : Bool) (p : Station) : (x.withMark b).isSentTo p = x.isSentTo p := by
  cases x <;> rfl
@[simp] theorem Slot.isSentAs_withMark (b : Bool) (p : Station) (q : Seq) :
    (x.withMark b).isSentAs p q = x.isSentAs p q := by cases x <;> rfl
@[simp] theorem Slot.withMark_withMark (b c : Bool) : (x.withMark b).withMark c = x.withMark c := by cases x <;> rfl

end

/-- A SENT slot of a peer is QUEUED or SENT. -/
theorem Slot.isOpen_of_isSentTo {p : Station} {x : Slot} (h : x.isSentTo p = true) : x.isOpen = true := by
  cases x <;> simp_all [Slot.isOpen, Slot.isSentTo]

/-- A QUEUED slot is QUEUED or SENT. -/
theorem Slot.isOpen_of_isQueued {x : Slot} (h : x.isQueued = true) : x.isOpen = true := by
  cases x <;> simp_all [Slot.isOpen, Slot.isQueued]

theorem Slot.not_isOpen_of_isComplete {x : Slot} (h : x.isComplete = true) : x.isOpen = false := by
  cases x <;> simp_all [Slot.isComplete, Slot.isOpen]

theorem Slot.not_isFree_of_isComplete {x : Slot} (h : x.isComplete = true) : x.isFree = false := by
  cases x <;> simp_all [Slot.isComplete, Slot.isFree]

theorem Slot.not_isFree_of_isQueued {x : Slot} (h : x.isQueued = true) : x.isFree = false := by
  cases x <;> simp_all [Slot.isQueued, Slot.isFree]

/-- Only a SENT slot bears a seq. -/
theorem Slot.isSentAs_of_isQueued {x : Slot} (h : x.isQueued = true) (p : Station) (q : Seq) :
    x.isSentAs p q = false := by
  cases x <;> simp_all [Slot.isQueued, Slot.isSentAs]

theorem Slot.isSentAs_of_not_isOpen {x : Slot} (h : x.isOpen = false) (p : Station) (q : Seq) :
    x.isSentAs p q = false := by
  cases x <;> simp_all [Slot.isOpen, Slot.isSentAs]

/-- A slot is of one peer only. -/
theorem Slot.isSentAs_of_ne {x : Slot} {p p' : Station} (h : x.isSentTo p = true ∨ x.isQueuedTo p = true) (hp : p ≠ p')
    (q : Seq) : x.isSentAs p' q = false := by
  cases x <;> simp_all [Slot.isSentTo, Slot.isQueuedTo, Slot.isSentAs]

/-- Reading a slot after a run of completions, whatever the run. -/
theorem Txs.slot_completeAll (o : SlotOutcome) (hs : List Handle) (t : Txs) (k : Handle) :
    (t.completeAll o hs).slot k = if k ∈ hs then (t.slot k).completed o else t.slot k := by
  have htwice : ∀ x : Slot, (x.completed o).completed o = x.completed o := fun x => by cases x <;> rfl
  induction hs generalizing t with
  | nil => simp [Txs.completeAll]
  | cons h hs ih =>
    have hcons : t.completeAll o (h :: hs) = (t.complete o h).completeAll o hs := rfl
    rw [hcons, ih, t.slot_complete]
    by_cases hk : h = k
    · subst hk
      simp [htwice]
    · simp [hk, Ne.symm hk]

/-- Reading a slot after the marking of a peer's SENT slots (R63, R64). -/
theorem Txs.slot_markSent {t : Txs} (p : Station) (k : Handle) :
    (t.markSent p).slot k
      = if k ∈ t.order ∧ (t.slot k).isSentTo p = true then (t.slot k).withMark true else t.slot k := by
  have hfold : ∀ (hs : List Handle) (t : Txs),
      (hs.foldl (fun t h => t.setSlot h ((t.slot h).withMark true)) t).slot k
        = if k ∈ hs then (t.slot k).withMark true else t.slot k := fun hs => by
    induction hs with
    | nil => simp
    | cons h hs ih =>
      intro t
      rw [List.foldl_cons, ih, Txs.slot_setSlot]
      by_cases hk : h = k
      · subst hk
        simp
      · simp [hk, Ne.symm hk]
  rw [Txs.markSent, hfold]
  simp only [List.mem_filter]

/-- The marking leaves all but the slots (R64). -/
theorem Txs.markSent_frame (t : Txs) (p : Station) : t.markSent p = { t with slots := (t.markSent p).slots } := by
  have hfold : ∀ (hs : List Handle) (u : Txs), u = { t with slots := u.slots } →
      hs.foldl (fun t h => t.setSlot h ((t.slot h).withMark true)) u
        = { t with slots := (hs.foldl (fun t h => t.setSlot h ((t.slot h).withMark true)) u).slots } := fun hs => by
    induction hs with
    | nil => exact fun u hu => hu
    | cons h hs ih =>
      intro u hu
      refine ih _ ?_
      rw [hu]
      rfl
  exact hfold _ t rfl

/-! ### The law after each operation -/

section
variable {t u : Txs}

/-- The submission order list holds every open slot (R91). -/
theorem Txs.SlotLaw.mem_order (ht : t.SlotLaw) {k : Handle} (hk : (t.slot k).isOpen = true) : k ∈ t.order :=
  ((ht.2.2 k).1).2 hk

/-- The completion queue holds no other slots than complete ones (R91). -/
theorem Txs.SlotLaw.isComplete (ht : t.SlotLaw) {k : Handle} (hk : k ∈ t.completions) : (t.slot k).isComplete = true :=
  ((ht.2.2 k).2).1 hk

/-- The law looks at the two lists and at which slots are open and which are complete. -/
theorem Txs.SlotLaw.congr (ht : t.SlotLaw) (horder : u.order = t.order) (hcompletions : u.completions = t.completions)
    (hslot : ∀ k, (u.slot k).isOpen = (t.slot k).isOpen ∧ (u.slot k).isComplete = (t.slot k).isComplete) :
    u.SlotLaw := by
  obtain ⟨h1, h2, h3⟩ := ht
  refine ⟨horder ▸ h1, hcompletions ▸ h2, fun k => ?_⟩
  rw [horder, hcompletions, (hslot k).1, (hslot k).2]
  exact h3 k

theorem Txs.SlotLaw.complete (ht : t.SlotLaw) (o : SlotOutcome) (h : Handle) : (t.complete o h).SlotLaw := by
  cases hopen : (t.slot h).isOpen with
  | false => rwa [t.complete_closed o hopen]
  | true =>
    obtain ⟨h1, h2, h3⟩ := ht
    have hnot : h ∉ t.completions := fun hm => by
      have hc := ((h3 h).2).1 hm
      cases hs : t.slot h <;> simp_all [Slot.isOpen, Slot.isComplete]
    rw [Txs.SlotLaw]
    simp only [t.slot_complete]
    rw [t.complete_open o hopen]
    refine ⟨h1.erase h, ?_, fun k => ?_⟩
    · simpa [List.nodup_append, h2] using fun a ha => fun e : a = h => hnot (e ▸ ha)
    · by_cases hk : h = k
      · subst hk
        simp [h1.mem_erase_iff, hopen]
      · simpa [h1.mem_erase_iff, hk, Ne.symm hk] using h3 k

theorem Txs.SlotLaw.completeAll (ht : t.SlotLaw) (o : SlotOutcome) (hs : List Handle) : (t.completeAll o hs).SlotLaw := by
  induction hs generalizing t with
  | nil => exact ht
  | cons h hs ih => exact ih (ht.complete o h)

theorem Txs.SlotLaw.voidSession (ht : t.SlotLaw) (p : Station) (q : Seq) : (t.voidSession p q).SlotLaw :=
  (ht.completeAll _ _).completeAll _ _

theorem Txs.SlotLaw.endSession (ht : t.SlotLaw) (p : Station) (q : Seq) : (t.endSession p q).SlotLaw :=
  (ht.voidSession p q).completeAll _ _

theorem Txs.SlotLaw.cancelStagedGroup (ht : t.SlotLaw) : t.cancelStagedGroup.SlotLaw := by
  unfold Txs.cancelStagedGroup
  split
  · split
    · exact ht.complete _ _
    · exact ht
  · exact ht

theorem Txs.SlotLaw.sendStagedGroup (ht : t.SlotLaw) (h : Option Handle) : (t.sendStagedGroup h).SlotLaw := by
  unfold Txs.sendStagedGroup
  split
  · exact ht
  · split
    · exact ht.complete _ _
    · exact ht

/-- A slot replaced by one that is open and complete alike. -/
theorem Txs.SlotLaw.setSlot (ht : t.SlotLaw) {h : Handle} {x : Slot} (ho : x.isOpen = (t.slot h).isOpen)
    (hc : x.isComplete = (t.slot h).isComplete) : (t.setSlot h x).SlotLaw := by
  refine ht.congr rfl rfl fun k => ?_
  rw [Txs.slot_setSlot]
  split
  next hk => exact hk ▸ ⟨ho, hc⟩
  next => exact ⟨rfl, rfl⟩

theorem Txs.SlotLaw.markSent (ht : t.SlotLaw) (p : Station) : (t.markSent p).SlotLaw := by
  have hframe := t.markSent_frame p
  refine ht.congr (by rw [hframe]) (by rw [hframe]) fun k => ?_
  rw [Txs.slot_markSent]
  split <;> simp

/-- The head of the completion queue becomes FREE (R97). -/
theorem Txs.SlotLaw.releaseHead (ht : t.SlotLaw) : t.releaseHead.SlotLaw := by
  unfold Txs.releaseHead
  split
  · exact ht
  next h rest hrest =>
    obtain ⟨h1, h2, h3⟩ := ht
    rw [hrest, List.nodup_cons] at h2
    have hslot : ∀ k, Txs.slot { t.setSlot h .free with
        completions := rest, staged := t.staged.map (StagingRecord.forget h) } k = if h = k then .free else t.slot k :=
      fun k => t.slot_setSlot h k .free
    refine ⟨h1, h2.2, fun k => ?_⟩
    rw [hslot]
    have hk := h3 k
    rw [hrest, List.mem_cons] at hk
    by_cases heq : h = k
    · subst heq
      have hcomplete := hk.2.1 (.inl rfl)
      have hopen : (t.slot h).isOpen = false := by
        cases hs : t.slot h <;> simp_all [Slot.isOpen, Slot.isComplete]
      rw [hopen] at hk
      simpa [h2.1, Slot.isOpen, Slot.isComplete] using hk.1
    · simpa [heq, Ne.symm heq] using hk

theorem Txs.isFree_of_lowestFree {h : Handle} (hf : t.lowestFree = some h) : (t.slot h).isFree = true :=
  List.find?_some (p := fun h => (t.slot h).isFree) hf

/-- A message in a FREE slot joins the submission order list (R94). -/
theorem Txs.SlotLaw.place (ht : t.SlotLaw) {h : Handle} (hf : (t.slot h).isFree = true) (m : Message) :
    (t.place h m).SlotLaw := by
  obtain ⟨h1, h2, h3⟩ := ht
  have hfree : t.slot h = .free := by cases hs : t.slot h <;> simp_all [Slot.isFree]
  have hh := h3 h
  rw [hfree] at hh
  have hno : h ∉ t.order := fun hm => absurd (hh.1.1 hm) (by decide)
  have hslot : ∀ k, (t.place h m).slot k = if h = k then .queued m else t.slot k := fun k =>
    t.slot_setSlot h k (.queued m)
  refine ⟨?_, h2, fun k => ?_⟩
  · simpa [Txs.place, List.nodup_append, h1] using fun a ha => fun e : a = h => hno (e ▸ ha)
  · rw [hslot]
    by_cases hk : h = k
    · subst hk
      have hnc : h ∉ t.completions := fun hm => absurd (hh.2.1 hm) (by decide)
      simp [Txs.place, Slot.isOpen, Slot.isComplete, hnc]
    · simpa [Txs.place, hk, Ne.symm hk] using h3 k

end

theorem Txs.slotLaw_cleared : Txs.cleared.SlotLaw := by
  have hslot : ∀ k, Txs.cleared.slot k = .free := fun k => by simp [Txs.slot, Txs.cleared]
  refine ⟨List.nodup_nil, List.nodup_nil, fun k => ?_⟩
  rw [hslot]
  exact ⟨⟨nofun, nofun⟩, nofun, nofun⟩

/-! ### Every change -/

section
variable {s : State}

/-- What holds at the start and is kept by each withdrawal holds after them all. -/
theorem State.withdrawAll_induction {P : State → Prop} (hs : P s) (hstep : ∀ t p, P t → P (t.withdrawPeer p)) :
    P s.withdrawAll := by
  have hfold : ∀ (ps : List Station) (t : State), P t → P (ps.foldl State.withdrawPeer t) := fun ps => by
    induction ps with
    | nil => exact fun t ht => ht
    | cons p ps ih => exact fun t ht => ih _ (hstep t p ht)
  exact hfold stations s hs

/-- An update that no withdrawal looks at can be made before the withdrawals or after them. -/
theorem State.withdrawAll_comm {g : State → State} (hpeer : ∀ t p, (g t).peer p = t.peer p)
    (hend : ∀ t p, (g t).sessionEnd p .absent 0 = g (t.sessionEnd p .absent 0))
    (hentry : ∀ t p f, (g t).onPeer p f = g (t.onPeer p f)) (s : State) : (g s).withdrawAll = g s.withdrawAll :=
  List.foldl_hom g fun t p => by
    simp only [State.withdrawPeer, hpeer, hend, hentry, apply_ite g]

theorem State.withdrawAll_onControl (s : State) (f : Control → Control) :
    (s.onControl f).withdrawAll = s.withdrawAll.onControl f :=
  State.withdrawAll_comm (g := State.onControl f) (fun _ _ => rfl) (fun _ _ => rfl) (fun _ _ _ => rfl) s

theorem State.withdrawAll_onHmn (s : State) (f : Hmn → Hmn) : (s.onHmn f).withdrawAll = s.withdrawAll.onHmn f :=
  State.withdrawAll_comm (g := State.onHmn f) (fun _ _ => rfl) (fun _ _ => rfl) (fun _ _ _ => rfl) s

/-- What LEAVE makes of the slots before the sessions end (R150). -/
def State.unstagedCancelled (s : State) : State := s.onTxs fun t => t.completeAll .cancelled t.unstagedQueued

theorem State.enterDetached_txs (s : State) : s.enterDetached.txs = s.withdrawAll.txs := by
  simp [State.enterDetached, State.withdrawAll_onControl]

/-- LEAVE with its steps on slots and sessions made first (R150). -/
theorem State.beginLeaving_eq (s : State) :
    s.beginLeaving
      = ((((s.unstagedCancelled.withdrawAll.onHmn fun m => { m with holdoff := 0 }).onControl fun k =>
          { k with opState := .leaving }).onPen fun n => { n with helloTimer := 0, helloDue := false }).onControl fun k =>
            { k with leavingHelloDue := true, leaveLimit := s.cfg.helloInterval }) := by
  have hcommute : ((s.onHmn fun m => { m with holdoff := 0 }).onControl fun k => { k with opState := .leaving }).onTxs
      (fun t => t.completeAll .cancelled t.unstagedQueued)
        = (s.unstagedCancelled.onHmn fun m => { m with holdoff := 0 }).onControl fun k => { k with opState := .leaving } :=
    rfl
  simp only [State.beginLeaving, hcommute, State.withdrawAll_onControl, State.withdrawAll_onHmn]

theorem State.beginLeaving_txs (s : State) : s.beginLeaving.txs = s.unstagedCancelled.withdrawAll.txs := by
  simp only [State.beginLeaving_eq, State.onControl_txs, State.onPen_txs, State.onHmn_txs]

theorem State.slotLaw_sessionRestart (hs : s.txs.SlotLaw) (p : Station) : (s.sessionRestart p).txs.SlotLaw :=
  hs.voidSession p _

theorem State.slotLaw_restartNoticed (hs : s.txs.SlotLaw) (p : Station) : (s.restartNoticed p).txs.SlotLaw := by
  unfold State.restartNoticed
  split <;> exact State.slotLaw_sessionRestart hs p

theorem State.slotLaw_withdrawAll (hs : s.txs.SlotLaw) : s.withdrawAll.txs.SlotLaw := by
  have hpeer : ∀ (t : State) (p : Station), t.txs.SlotLaw → (t.withdrawPeer p).txs.SlotLaw := fun t p ht => by
    rcases t.withdrawPeer_cases p with ⟨-, h⟩ | ⟨-, h⟩ | ⟨-, -, h⟩ <;> rw [h]
    · exact ht.endSession p _
    · exact ht
    · exact ht
  exact State.withdrawAll_induction (P := fun t => t.txs.SlotLaw) hs hpeer

theorem State.takeAck_txs (p : Station) (a : Seq) :
    (s.takeAck p a).txs
      = if a = (s.peer p).oldestUnacked then s.txs
        else s.txs.completeAll .delivered
          (s.txs.sentInSequence p (s.peer p).oldestUnacked (a - (s.peer p).oldestUnacked).toNat) := by
  simp only [State.takeAck]
  split <;> rfl

theorem State.takeAckLimit_txs {p : Station} {a l : Seq} {t : State} (ht : s.takeAckLimit p a l = some t) :
    t.txs = (s.takeAck p a).txs := by
  unfold State.takeAckLimit at ht
  split at ht
  · cases ht
    rfl
  · cases ht

theorem State.slotLaw_takeAckLimit (hs : s.txs.SlotLaw) {p : Station} {a l : Seq} {t : State}
    (ht : s.takeAckLimit p a l = some t) : t.txs.SlotLaw := by
  rw [State.takeAckLimit_txs ht, State.takeAck_txs]
  split
  · exact hs
  · exact hs.completeAll _ _

theorem State.submitCheck_ok {q : SubmitParams} {h : Handle} {target : Target} (hc : s.submitCheck q = .ok (h, target)) :
    s.control.opState.takesMessages = true ∧ s.submitTarget q = .ok target ∧ (s.txs.slot h).isFree = true := by
  unfold State.submitCheck at hc
  split at hc
  · cases hc
  next ho =>
    split at hc
    · cases hc
    · split at hc
      · cases hc
      · split at hc
        · cases hc
        next target' ht =>
          split at hc
          · cases hc
          next h' hf =>
            cases hc
            exact ⟨by simpa using ho, ht, Txs.isFree_of_lowestFree hf⟩

end

theorem Slot.isOpen_becomeSent (q : Seq) (b : Bool) (x : Slot) : (x.becomeSent q b).isOpen = x.isOpen := by cases x <;> rfl
theorem Slot.isComplete_becomeSent (q : Seq) (b : Bool) (x : Slot) :
    (x.becomeSent q b).isComplete = x.isComplete := by cases x <;> rfl

/-- Every change keeps the law of the slots. -/
theorem Txs.SlotLaw.change {s t : State} (h : Change s t) (hs : s.txs.SlotLaw) : t.txs.SlotLaw := by
  have hcleared : ∀ {u : State}, u.txs.SlotLaw → u.clearStaged.txs.SlotLaw := id
  cases h
  case firstSent h p q c _ =>
    refine hcleared ?_
    simp only [State.firstSendOk, State.carry, State.onPeer_txs]
    split
    · exact hs
    · split
      · exact hs.setSlot (Slot.isOpen_becomeSent _ _ _) (Slot.isComplete_becomeSent _ _ _)
      · exact hs
  case resent h p q c _ =>
    refine hcleared ?_
    simp only [State.resendOk, State.carry, State.onPeer_txs]
    split
    · exact hs
    · split
      · exact hs.setSlot (Slot.isOpen_withMark _ _) (Slot.isComplete_withMark _ _)
      · exact hs
  case groupSent h _ => exact hcleared (hs.sendStagedGroup h)
  case helloSent e _ =>
    refine hcleared ?_
    unfold State.helloOk
    split <;> exact hs
  case failed =>
    rw [State.takeFailure_eq]
    split
    · exact hs.cancelStagedGroup
    · exact hs
  case submit hc => exact hs.place (State.submitCheck_ok hc).2.2 _
  case cancel => exact hs.complete _ _
  case releaseSlot => exact hs.releaseHead
  case group =>
    unfold State.groupReceived
    split
    · exact hs
    · split <;> exact hs
  case resynchronise p e _ _ _ =>
    simp only [State.resynchronised, State.onPeer_txs]
    split
    · exact State.slotLaw_restartNoticed hs p
    · exact hs
  case openLink p e l _ _ _ _ => exact State.slotLaw_restartNoticed hs p
  case leave p _ => exact hs.endSession p _
  case lose p _ => exact hs.endSession p _
  case ackLimit ht => exact State.slotLaw_takeAckLimit hs ht
  case accept p a l u _ ht =>
    have hu := State.slotLaw_takeAckLimit hs ht
    exact hu
  case seq p q payload _ =>
    unfold State.takeSeq
    split <;> exact hs
  case ackRetry p _ _ _ => exact hs.markSent p
  case detach =>
    rw [State.enterDetached_txs]
    exact State.slotLaw_withdrawAll hs
  case beginLeaving =>
    have hcancelled : s.unstagedCancelled.txs.SlotLaw := hs.completeAll _ _
    rw [State.beginLeaving_txs]
    exact State.slotLaw_withdrawAll hcancelled
  case endLeaving timedOut _ _ =>
    cases timedOut with
    | false => exact hs
    | true => exact hs.cancelStagedGroup
  case softReset => exact Txs.slotLaw_cleared
  all_goals exact hs

theorem stepInvariant_slotLaw : StepInvariant (fun _ => True) (fun s => s.txs.SlotLaw) where
  queues _ _ := id
  reset _ _ _ _ _ := Txs.slotLaw_cleared
  stage {s} _ hs _ := by
    rcases s.stage_cases with h | ⟨c, u, f, r, -, -, h⟩
    · rwa [h]
    · rw [h]
      exact hs
  change := Txs.SlotLaw.change

end Sys2Proof.Machine
end

section
/-! PROOFS. The laws of the sessions: what a slot and the staging record say of a peer, and the send windows (R29, R48, R97,
R106). -/

namespace Sys2Proof.Machine

/-! ### What the laws of the sessions look at -/

/-- The fields of an entry that the laws of the sessions look at. -/
structure SendWindow where
  state : AssocState
  nextTxSeq : Seq
  oldestUnacked : Seq
  heldLimit : Seq
  sessionCount : BitVec 8

/-- The send window of an entry, with its association state and its sessionCount. -/
def PeerEntry.window (e : PeerEntry) : SendWindow := ⟨e.state, e.nextTxSeq, e.oldestUnacked, e.heldLimit, e.sessionCount⟩

/-- The fields that the laws of the sessions look at: resend marks, credit and timers are none of them. -/
structure SessionView where
  opState : OpState
  slot : Handle → Slot
  staged : Option StagingRecord
  window : Station → SendWindow

/-- The view of a state. -/
def State.sessionView (s : State) : SessionView where
  opState := s.control.opState
  slot := fun k => (s.txs.slot k).withMark false
  staged := s.txs.staged
  window := fun p => (s.peer p).window

/-- Two slots that differ in their resend marks at most. -/
def Slot.Alike (x y : Slot) : Prop := x.withMark false = y.withMark false

section
variable {x y : Slot} (h : x.Alike y)
include h

theorem Slot.Alike.isOpen : x.isOpen = y.isOpen := by rw [← x.isOpen_withMark false, h, y.isOpen_withMark]
theorem Slot.Alike.isFree : x.isFree = y.isFree := by rw [← x.isFree_withMark false, h, y.isFree_withMark]
theorem Slot.Alike.isQueued : x.isQueued = y.isQueued := by rw [← x.isQueued_withMark false, h, y.isQueued_withMark]
theorem Slot.Alike.isQueuedTo (p : Station) : x.isQueuedTo p = y.isQueuedTo p := by
  rw [← x.isQueuedTo_withMark false, h, y.isQueuedTo_withMark]
theorem Slot.Alike.isSentTo (p : Station) : x.isSentTo p = y.isSentTo p := by
  rw [← x.isSentTo_withMark false, h, y.isSentTo_withMark]
theorem Slot.Alike.isSentAs (p : Station) (q : Seq) : x.isSentAs p q = y.isSentAs p q := by
  rw [← x.isSentAs_withMark false, h, y.isSentAs_withMark]

end

theorem Slot.Alike.rfl {x : Slot} : x.Alike x := Eq.refl _

theorem Slot.alike_of_eq {x y : Slot} (h : x = y) : x.Alike y := h ▸ Slot.Alike.rfl

section
variable {s t : State} (h : t.sessionView = s.sessionView)
include h

theorem State.opState_of_sessionView : t.control.opState = s.control.opState := congrArg SessionView.opState h
theorem State.staged_of_sessionView : t.txs.staged = s.txs.staged := congrArg SessionView.staged h
theorem State.alike_of_sessionView (k : Handle) : (t.txs.slot k).Alike (s.txs.slot k) :=
  congrFun (congrArg SessionView.slot h) k
theorem State.window_of_sessionView (p : Station) : (t.peer p).window = (s.peer p).window :=
  congrFun (congrArg SessionView.window h) p

end

/-! ### The staging record -/

/-- What a staging record asks of its peer's entry is kept from one entry to another. -/
structure PeerEntry.Sustains (e e' : PeerEntry) : Prop where
  state : e'.state = e.state
  sessionCount : e'.sessionCount = e.sessionCount
  nextTxSeq : e'.nextTxSeq = e.nextTxSeq
  heldCredit : 1 ≤ e.heldCredit → 1 ≤ e'.heldCredit

theorem PeerEntry.sustains_of_window {e e' : PeerEntry} (h : e'.window = e.window) : e.Sustains e' where
  state := congrArg SendWindow.state h
  sessionCount := congrArg SendWindow.sessionCount h
  nextTxSeq := congrArg SendWindow.nextTxSeq h
  heldCredit hc := by
    have hheld : e'.heldLimit = e.heldLimit := congrArg SendWindow.heldLimit h
    have hnext : e'.nextTxSeq = e.nextTxSeq := congrArg SendWindow.nextTxSeq h
    rwa [PeerEntry.heldCredit, hheld, hnext]

/-- A record stands on as long as the slot it names and that slot's peer are as they were, or the slot has completed (R105,
R106). -/
theorem State.StagedStands.transfer {s t : State} {r : StagingRecord} (h : s.StagedStands r)
    (hk : ∀ k, r.handle = some k →
      (t.txs.slot k).Alike (s.txs.slot k)
          ∧ (∀ p, (s.txs.slot k).isQueuedTo p = true ∨ (s.txs.slot k).isSentTo p = true →
              (s.peer p).Sustains (t.peer p))
        ∨ (t.txs.slot k).isComplete = true ∧ r ≠ .group (some k)) : t.StagedStands r := by
  have hcomplete : ∀ {x : Slot}, x.isComplete = true → x.isFree = false ∧ x.isOpen = false := fun hx =>
    ⟨Slot.not_isFree_of_isComplete hx, Slot.not_isOpen_of_isComplete hx⟩
  rcases r with _ | _ | _ | ⟨_ | k, p, q, c⟩ | ⟨_ | k, p, q, c⟩ | ⟨_ | k⟩
  case firstSend.some =>
    rcases hk k rfl with ⟨ha, hp⟩ | ⟨hc, -⟩
    · refine ⟨ha.isFree.trans h.1, fun ho => ?_⟩
      obtain ⟨hq, hstate, hcount, hnext, hcredit⟩ := h.2 (ha.isOpen.symm.trans ho)
      have hsustains := hp p (.inl hq)
      exact ⟨(ha.isQueuedTo p).trans hq, hsustains.state.trans hstate, hsustains.sessionCount.trans hcount,
        hsustains.nextTxSeq.trans hnext, hsustains.heldCredit hcredit⟩
    · exact ⟨(hcomplete hc).1, fun ho => absurd (ho.symm.trans (hcomplete hc).2) (by decide)⟩
  case resend.some =>
    rcases hk k rfl with ⟨ha, hp⟩ | ⟨hc, -⟩
    · refine ⟨ha.isFree.trans h.1, fun ho => ?_⟩
      obtain ⟨hq, hcount⟩ := h.2 (ha.isOpen.symm.trans ho)
      have hsustains := hp p (.inr (Slot.isSentTo_iff.2 ⟨q, hq⟩))
      exact ⟨(ha.isSentAs p q).trans hq, hsustains.sessionCount.trans hcount⟩
    · exact ⟨(hcomplete hc).1, fun ho => absurd (ho.symm.trans (hcomplete hc).2) (by decide)⟩
  case group.some =>
    rcases hk k rfl with ⟨ha, -⟩ | ⟨-, hne⟩
    · exact ⟨ha.isQueued.trans h.1, fun p => (ha.isQueuedTo p).trans (h.2 p)⟩
    · exact absurd rfl hne
  all_goals trivial

/-! ### The laws, clause by clause -/

section
variable {s : State} (h : s.SessionLaw) {k : Handle} {p : Station}
include h

/-- A SENT slot is of a LINKED peer (R29). -/
theorem State.SessionLaw.linked (hk : (s.txs.slot k).isSentTo p = true) : (s.peer p).state = .linked := h.1 k p hk

/-- A QUEUED DATA slot is of a SYNCING or LINKED peer (R29). -/
theorem State.SessionLaw.live (hk : (s.txs.slot k).isQueuedTo p = true) : (s.peer p).isLive = true := h.2.2.1 k p hk

theorem State.SessionLaw.queued_or_sent (hk : (s.txs.slot k).isOpen = true) :
    (s.txs.slot k).isQueued = true ∨ ∃ p, (s.txs.slot k).isSentTo p = true := h.2.1 k hk

/-- In UNCONFIGURED and READY no slot is QUEUED or SENT (R140). -/
theorem State.SessionLaw.closed (he : s.enabled = false) (k : Handle) : (s.txs.slot k).isOpen = false := h.2.2.2.1 he k

/-- In LEAVING the only open slot is a staged GROUP (R151). -/
theorem State.SessionLaw.leaving (ho : s.control.opState = .leaving) (hk : (s.txs.slot k).isOpen = true) :
    s.txs.staged = some (.group (some k)) := h.2.2.2.2.1 ho k hk

theorem State.SessionLaw.stands {r : StagingRecord} (hr : s.txs.staged = some r) : s.StagedStands r := h.2.2.2.2.2 r hr

end

section
variable {s : State} (h : s.WindowLaw) (p : Station)
include h

/-- The held limit is at most 15 above the oldest unacknowledged seq (R48). -/
theorem State.WindowLaw.size : ((s.peer p).heldLimit - (s.peer p).oldestUnacked).toNat ≤ 15 := (h p).2.1

theorem State.WindowLaw.outstanding_le : (s.peer p).outstanding ≤ 15 := (h p).1.trans (h.size p)

/-- Each seq of the outstanding span is borne by one SENT slot, and no other by any (R48). -/
theorem State.WindowLaw.count (q : Seq) :
    (handles.filter fun k => (s.txs.slot k).isSentAs p q).length
      = if (q - (s.peer p).oldestUnacked).toNat < (s.peer p).outstanding then 1 else 0 := (h p).2.2 q

end

/-! ### The laws, transferred -/

/-- The law of the send windows looks at the windows and at which slots are SENT as what. -/
theorem State.WindowLaw.congr {s t : State} (hs : s.WindowLaw) (hw : ∀ p, (t.peer p).window = (s.peer p).window)
    (hsent : ∀ k p q, (t.txs.slot k).isSentAs p q = (s.txs.slot k).isSentAs p q) : t.WindowLaw := by
  intro p
  have hnext : (t.peer p).nextTxSeq = (s.peer p).nextTxSeq := congrArg SendWindow.nextTxSeq (hw p)
  have hold : (t.peer p).oldestUnacked = (s.peer p).oldestUnacked := congrArg SendWindow.oldestUnacked (hw p)
  have hheld : (t.peer p).heldLimit = (s.peer p).heldLimit := congrArg SendWindow.heldLimit (hw p)
  simp only [PeerEntry.outstanding, hnext, hold, hheld, hsent]
  exact hs p

theorem State.windowLaw_of_view {s t : State} (h : t.sessionView = s.sessionView) (hs : s.WindowLaw) : t.WindowLaw :=
  hs.congr (State.window_of_sessionView h) fun k => (State.alike_of_sessionView h k).isSentAs

/-- The law of the slots' peers, for states that differ in what an open slot does not ask for. -/
theorem State.sessionLaw_of_view {s t : State} (h : t.sessionView = s.sessionView) (hs : s.SessionLaw) : t.SessionLaw := by
  obtain ⟨h1, h2, h3, h4, h5, h6⟩ := hs
  have hop := State.opState_of_sessionView h
  have hst := State.staged_of_sessionView h
  have ha := State.alike_of_sessionView h
  have hw := State.window_of_sessionView h
  have hstate : ∀ p, (t.peer p).state = (s.peer p).state := fun p => congrArg SendWindow.state (hw p)
  refine ⟨fun k p => ?_, fun k => ?_, fun k p => ?_, fun he k => ?_, fun hl k => ?_, fun r hr => ?_⟩
  · rw [(ha k).isSentTo, hstate]
    exact h1 k p
  · simp only [(ha k).isOpen, (ha k).isQueued, (ha k).isSentTo]
    exact h2 k
  · rw [(ha k).isQueuedTo, PeerEntry.isLive, hstate]
    exact h3 k p
  · rw [(ha k).isOpen]
    exact h4 (by rwa [State.enabled, ← hop]) k
  · rw [(ha k).isOpen, hst]
    exact h5 (hop ▸ hl) k
  · exact (h6 r (hst ▸ hr)).transfer fun k _ => .inl ⟨ha k, fun p _ => PeerEntry.sustains_of_window (hw p)⟩

/-- With no slot QUEUED or SENT and nothing staged, nothing is asked of a peer. -/
theorem State.sessionLaw_of_closed {s : State} (ho : ∀ k, (s.txs.slot k).isOpen = false) (hs : s.txs.staged = none) :
    s.SessionLaw := by
  have hsent : ∀ k p, (s.txs.slot k).isSentTo p = true → False := fun k p h => by
    have := Slot.isOpen_of_isSentTo h
    rw [ho] at this
    cases this
  have hqueued : ∀ k p, (s.txs.slot k).isQueuedTo p = true → False := fun k p h => by
    have := Slot.isOpen_of_isQueuedTo h
    rw [ho] at this
    cases this
  refine ⟨fun k p h => (hsent k p h).elim, fun k h => ?_, fun k p h => (hqueued k p h).elim, fun _ => ho, fun _ k h => ?_,
    fun r hr => ?_⟩
  · rw [ho] at h
    cases h
  · rw [ho] at h
    cases h
  · rw [hs] at hr
    cases hr

/-- QUEUED slots complete, and the staging record stands or is cleared with no open slot of LEAVING left behind (R92, R111,
R151). -/
theorem State.SessionLaw.close {s t : State} (hs : s.SessionLaw) (hop : t.control.opState = s.control.opState)
    (hw : ∀ p, (t.peer p).window = (s.peer p).window)
    (hslot : ∀ k, t.txs.slot k = s.txs.slot k ∨ (s.txs.slot k).isQueued = true ∧ (t.txs.slot k).isComplete = true)
    (hstaged : t.txs.staged = s.txs.staged ∧ (∀ k, s.txs.staged = some (.group (some k)) → t.txs.slot k = s.txs.slot k)
      ∨ t.txs.staged = none ∧ (s.control.opState = .leaving → ∀ k, (t.txs.slot k).isOpen = false)) :
    t.SessionLaw := by
  obtain ⟨h1, h2, h3, h4, h5, h6⟩ := hs
  have hstate : ∀ p, (t.peer p).state = (s.peer p).state := fun p => congrArg SendWindow.state (hw p)
  have hopen : ∀ k, (t.txs.slot k).isOpen = true → t.txs.slot k = s.txs.slot k := fun k ho =>
    (hslot k).resolve_right fun hc => absurd (ho.symm.trans (Slot.not_isOpen_of_isComplete hc.2)) (by decide)
  refine ⟨fun k p h => ?_, fun k h => ?_, fun k p h => ?_, fun he k => ?_, fun hl k h => ?_, fun r hr => ?_⟩
  · rw [hopen k (Slot.isOpen_of_isSentTo h)] at h
    exact (hstate p).trans (h1 k p h)
  · have hsame := hopen k h
    rw [hsame] at h ⊢
    exact h2 k h
  · rw [hopen k (Slot.isOpen_of_isQueuedTo h)] at h
    rw [PeerEntry.isLive, hstate]
    exact h3 k p h
  · rcases hslot k with hk | hk
    · rw [hk]
      exact h4 (by rwa [State.enabled, ← hop]) k
    · exact Slot.not_isOpen_of_isComplete hk.2
  · rcases hstaged with ⟨hst, -⟩ | ⟨-, hno⟩
    · have hsame := hopen k h
      rw [hst]
      exact h5 (hop ▸ hl) k (hsame ▸ h)
    · rw [hno (hop ▸ hl) k] at h
      cases h
  · rcases hstaged with ⟨hst, hgroup⟩ | ⟨hst, -⟩
    · rw [hst] at hr
      refine (h6 r hr).transfer fun k hk => ?_
      rcases hslot k with hsame | hc
      · exact .inl ⟨Slot.alike_of_eq hsame, fun p _ => PeerEntry.sustains_of_window (hw p)⟩
      · by_cases hg : r = .group (some k)
        · exact .inl ⟨Slot.alike_of_eq (hgroup k (hg ▸ hr)), fun p _ => PeerEntry.sustains_of_window (hw p)⟩
        · exact .inr ⟨hc.2, hg⟩
    · rw [hst] at hr
      cases hr

/-- Completed QUEUED slots bore no seq. -/
theorem State.WindowLaw.close {s t : State} (hs : s.WindowLaw) (hw : ∀ p, (t.peer p).window = (s.peer p).window)
    (hslot : ∀ k, t.txs.slot k = s.txs.slot k ∨ (s.txs.slot k).isQueued = true ∧ (t.txs.slot k).isComplete = true) :
    t.WindowLaw := by
  refine hs.congr hw fun k p q => ?_
  rcases hslot k with h | ⟨h1, h2⟩
  · rw [h]
  · rw [Slot.isSentAs_of_not_isOpen (Slot.not_isOpen_of_isComplete h2), Slot.isSentAs_of_isQueued h1]

/-- A new operating state in which the part may hold the slots it holds. -/
theorem State.SessionLaw.opState {s t : State} (hs : s.SessionLaw) {o : OpState}
    (ht : t.sessionView = { s.sessionView with opState := o })
    (he : o.enabled = false → ∀ k, (s.txs.slot k).isOpen = false)
    (hl : o = .leaving → ∀ k, (s.txs.slot k).isOpen = true → s.txs.staged = some (.group (some k))) :
    t.SessionLaw := by
  obtain ⟨h1, h2, h3, -, -, h6⟩ := hs
  have hafter : State.SessionLaw { s with control := { s.control with opState := o } } := ⟨h1, h2, h3, he, hl, h6⟩
  exact State.sessionLaw_of_view (s := { s with control := { s.control with opState := o } }) ht hafter

theorem State.WindowLaw.opState {s t : State} (hs : s.WindowLaw) {o : OpState}
    (ht : t.sessionView = { s.sessionView with opState := o }) : t.WindowLaw :=
  State.windowLaw_of_view (s := { s with control := { s.control with opState := o } }) ht hs

end Sys2Proof.Machine
end

section
/-! PROOFS. Sessions that are replaced: restarts, ends, associations, and the withdrawal of every peer. -/

namespace Sys2Proof.Machine

/-! ### The laws of the sessions together -/

/-- The laws of the slots, of the peer table and of the sessions. -/
structure State.SessionsHold (s : State) : Prop where
  slots : s.txs.SlotLaw
  peers : s.PeerLaw
  session : s.SessionLaw
  window : s.WindowLaw

section
variable {s : State} (hs : s.SessionsHold) {p : Station}
include hs

theorem State.SessionsHold.not_sent (hp : (s.peer p).state ≠ .linked) (k : Handle) :
    (s.txs.slot k).isSentTo p = false := by
  by_contra h
  exact hp (hs.session.linked (by simpa using h))

theorem State.SessionsHold.not_queued (hp : (s.peer p).isLive = false) (k : Handle) :
    (s.txs.slot k).isQueuedTo p = false := by
  by_contra h
  have hlive := hs.session.live (by simpa using h)
  rw [hp] at hlive
  cases hlive

/-- A peer without SENT slots has nothing outstanding (R48). -/
theorem State.SessionsHold.outstanding_eq_zero (hp : ∀ k, (s.txs.slot k).isSentTo p = false) :
    (s.peer p).outstanding = 0 := by
  have hcount := hs.window.count p (s.peer p).oldestUnacked
  have hnone : (handles.filter fun k => (s.txs.slot k).isSentAs p (s.peer p).oldestUnacked) = [] := by
    refine List.filter_eq_nil_iff.2 fun k _ h => ?_
    have hsent := Slot.isSentTo_iff.2 ⟨_, h⟩
    rw [hp] at hsent
    cases hsent
  rw [hnone] at hcount
  by_contra hne
  rw [if_pos (by simpa using Nat.pos_of_ne_zero hne)] at hcount
  cases hcount

/-- A staged first send is to a LINKED peer (R100, R106). -/
theorem State.SessionsHold.linked_of_staged {k : Handle} (hk : s.txs.stagedHandle = some k)
    (hq : (s.txs.slot k).isQueuedTo p = true) : (s.peer p).state = .linked := by
  rw [Txs.stagedHandle, Option.bind_eq_some_iff] at hk
  obtain ⟨r, hr, hk⟩ := hk
  have hstands := hs.session.stands hr
  have hopen := Slot.isOpen_of_isQueuedTo hq
  rcases r with _ | _ | _ | ⟨_ | k', p', q, c⟩ | ⟨_ | k', p', q, c⟩ | ⟨_ | k'⟩ <;> cases hk
  · obtain ⟨hq', hlinked, -⟩ := hstands.2 hopen
    have hsame : p' = p := by
      cases hx : s.txs.slot k <;> simp_all [Slot.isQueuedTo]
    exact hsame ▸ hlinked
  · obtain ⟨hsent, -⟩ := hstands.2 hopen
    cases hx : s.txs.slot k <;> simp_all [Slot.isQueuedTo, Slot.isSentAs]
  · rw [hstands.2 p] at hq
    cases hq

end

/-! ### One session replaced -/

/-- The session of a peer is replaced: its entry changes, slots of it complete, and nothing else that the laws look at
does (R30, R31). -/
structure State.Replaced (p : Station) (s t : State) : Prop where
  opState : t.control.opState = s.control.opState
  staged : t.txs.staged = s.txs.staged
  peer : ∀ q, p ≠ q → t.peer q = s.peer q
  slot : ∀ k, t.txs.slot k = s.txs.slot k
    ∨ ((s.txs.slot k).isSentTo p = true ∨ (s.txs.slot k).isQueuedTo p = true) ∧ (t.txs.slot k).isComplete = true

/-- The peer is left without SENT slots, without a staged first send, and with QUEUED slots only if it is live. -/
structure State.Vacated (p : Station) (s t : State) : Prop where
  sent : ∀ k, (t.txs.slot k).isSentTo p = false
  staged : ∀ k, s.txs.stagedHandle = some k → (t.txs.slot k).isQueuedTo p = false
  queued : (t.peer p).isLive = false → ∀ k, (t.txs.slot k).isQueuedTo p = false

section
variable {s t : State} {p : Station} (h : State.Replaced p s t) (hv : State.Vacated p s t)
include h hv

theorem State.SessionLaw.replaced (hs : s.SessionLaw) : t.SessionLaw := by
  obtain ⟨h1, h2, h3, h4, h5, h6⟩ := hs
  have hopen : ∀ k, (t.txs.slot k).isOpen = true → t.txs.slot k = s.txs.slot k := fun k ho =>
    (h.slot k).resolve_right fun hc => absurd (ho.symm.trans (Slot.not_isOpen_of_isComplete hc.2)) (by decide)
  refine ⟨fun k q hk => ?_, fun k hk => ?_, fun k q hk => ?_, fun he k => ?_, fun hl k hk => ?_, fun r hr => ?_⟩
  · by_cases hpq : p = q
    · subst hpq
      rw [hv.sent k] at hk
      cases hk
    · rw [h.peer q hpq]
      exact h1 k q (hopen k (Slot.isOpen_of_isSentTo hk) ▸ hk)
  · have hsame := hopen k hk
    rw [hsame] at hk ⊢
    exact h2 k hk
  · by_cases hpq : p = q
    · subst hpq
      by_contra hlive
      rw [hv.queued (by simpa using hlive) k] at hk
      cases hk
    · rw [h.peer q hpq]
      exact h3 k q (hopen k (Slot.isOpen_of_isQueuedTo hk) ▸ hk)
  · rcases h.slot k with hk | hk
    · rw [hk]
      exact h4 (by rwa [State.enabled, ← h.opState]) k
    · exact Slot.not_isOpen_of_isComplete hk.2
  · rw [h.staged]
    exact h5 (h.opState ▸ hl) k (hopen k hk ▸ hk)
  · rw [h.staged] at hr
    refine (h6 r hr).transfer fun k hk => ?_
    have hstaged : s.txs.stagedHandle = some k := by rw [Txs.stagedHandle, hr, Option.bind_some, hk]
    rcases h.slot k with hsame | ⟨hof, hc⟩
    · refine .inl ⟨Slot.alike_of_eq hsame, fun q hq => ?_⟩
      have hne : p ≠ q := fun hpq => by
        subst hpq
        rw [← hsame, hv.sent k, hv.staged k hstaged] at hq
        simp at hq
      rw [h.peer q hne]
      exact PeerEntry.sustains_of_window rfl
    · refine .inr ⟨hc, fun hg => ?_⟩
      subst hg
      obtain ⟨hqueued, hno⟩ := h6 _ hr
      rw [hno p] at hof
      cases hx : s.txs.slot k <;> simp_all [Slot.isQueued, Slot.isSentTo]

theorem State.WindowLaw.replaced (hs : s.WindowLaw) (hout : (t.peer p).outstanding = 0)
    (hwindow : ((t.peer p).heldLimit - (t.peer p).oldestUnacked).toNat ≤ 15) : t.WindowLaw := by
  intro q
  by_cases hpq : p = q
  · subst hpq
    refine ⟨by omega, hwindow, fun n => ?_⟩
    rw [hout, if_neg (Nat.not_lt_zero _), List.length_eq_zero_iff]
    refine List.filter_eq_nil_iff.2 fun k _ hk => ?_
    have hsent := Slot.isSentTo_iff.2 ⟨n, hk⟩
    rw [hv.sent k] at hsent
    cases hsent
  · have hsame : ∀ k n, (t.txs.slot k).isSentAs q n = (s.txs.slot k).isSentAs q n := fun k n => by
      rcases h.slot k with hk | ⟨hof, hc⟩
      · rw [hk]
      · rw [Slot.isSentAs_of_not_isOpen (Slot.not_isOpen_of_isComplete hc), Slot.isSentAs_of_ne hof hpq]
    simp only [h.peer q hpq, hsame]
    exact hs q

end

/-! ### What restarts and ends do to the slots -/

section
variable {t : Txs} (ht : t.SlotLaw) (p : Station) (oldest : Seq)
include ht

/-- A session restart completes SENT slots and the staged first send of its peer, and all of them (R30). -/
theorem Txs.voidSession_slot :
    (∀ k, (t.voidSession p oldest).slot k = t.slot k
        ∨ ((t.slot k).isSentTo p = true ∨ (t.slot k).isQueuedTo p = true)
          ∧ ((t.voidSession p oldest).slot k).isComplete = true)
      ∧ (∀ k, ((t.voidSession p oldest).slot k).isSentTo p = false)
      ∧ ∀ k, t.stagedHandle = some k → ((t.voidSession p oldest).slot k).isQueuedTo p = false := by
  obtain ⟨hslot, -⟩ := Txs.voidSession_spec ht p oldest rfl rfl
  have hmem : ∀ k, (t.slot k).isOpen = true → k ∈ t.order := fun k => ht.mem_order
  have hsent : ∀ k, (t.slot k).isSentTo p = true → k ∈ t.sentInSequence p oldest 64 := fun k hk =>
    Txs.mem_sentInSequence_all.2 ⟨hmem k (Slot.isOpen_of_isSentTo hk), hk⟩
  refine ⟨fun k => ?_, fun k => ?_, fun k hk => ?_⟩
  · rw [hslot]
    split
    next hk =>
      have hof : (t.slot k).isSentTo p = true ∨ (t.slot k).isQueuedTo p = true := by
        rcases List.mem_append.1 hk with hk | hk
        · exact .inl (Txs.mem_sentInSequence_all.1 hk).2
        · have hk := (List.mem_filter.1 hk).2
          exact .inr (Bool.and_eq_true_iff.1 hk).1
      refine .inr ⟨hof, ?_⟩
      rw [Slot.isComplete_completed, hof.elim Slot.isOpen_of_isSentTo Slot.isOpen_of_isQueuedTo, Bool.true_or]
    next => exact .inl rfl
  · rw [hslot]
    split
    next => exact Slot.isSentTo_completed _ _ _
    next hk =>
      by_contra hc
      exact hk (List.mem_append_left _ (hsent k (by simpa using hc)))
  · rw [hslot]
    split
    next => exact Slot.isQueuedTo_completed _ _ _
    next hno =>
      by_contra hc
      have hq : (t.slot k).isQueuedTo p = true := by simpa using hc
      refine hno (List.mem_append_right _ (List.mem_filter.2 ⟨hmem k (Slot.isOpen_of_isQueuedTo hq), ?_⟩))
      simp [hq, hk]

/-- A session end completes the slots of its peer, and all of them (R31). -/
theorem Txs.endSession_slot :
    (∀ k, (t.endSession p oldest).slot k = t.slot k
        ∨ ((t.slot k).isSentTo p = true ∨ (t.slot k).isQueuedTo p = true)
          ∧ ((t.endSession p oldest).slot k).isComplete = true)
      ∧ ∀ k, ((t.endSession p oldest).slot k).isSentTo p = false
        ∧ ((t.endSession p oldest).slot k).isQueuedTo p = false := by
  obtain ⟨hvoid, hsent, -⟩ := Txs.voidSession_slot ht p oldest
  have hlaw := ht.voidSession p oldest
  have hmem : ∀ k, ((t.voidSession p oldest).slot k).isQueuedTo p = true → k ∈ (t.voidSession p oldest).queuedFor p :=
    fun k hk => List.mem_filter.2 ⟨hlaw.mem_order (Slot.isOpen_of_isQueuedTo hk), hk⟩
  have hslot : ∀ k, (t.endSession p oldest).slot k
      = if k ∈ (t.voidSession p oldest).queuedFor p then ((t.voidSession p oldest).slot k).completed .peerGone
        else (t.voidSession p oldest).slot k := Txs.slot_completeAll _ _ _
  refine ⟨fun k => ?_, fun k => ?_⟩
  · rw [hslot]
    split
    next hk =>
      have hq : ((t.voidSession p oldest).slot k).isQueuedTo p = true := (List.mem_filter.1 hk).2
      refine .inr ⟨?_, ?_⟩
      · rcases hvoid k with hsame | ⟨hof, -⟩
        · exact .inr (hsame ▸ hq)
        · exact hof
      · rw [Slot.isComplete_completed, Slot.isOpen_of_isQueuedTo hq, Bool.true_or]
    next => exact hvoid k
  · rw [hslot]
    split
    next => exact ⟨Slot.isSentTo_completed _ _ _, Slot.isQueuedTo_completed _ _ _⟩
    next hno => exact ⟨hsent k, by by_contra hc; exact hno (hmem k (by simpa using hc))⟩

end

theorem Txs.voidSession_staged (t : Txs) (p : Station) (q : Seq) : (t.voidSession p q).staged = t.staged := by
  simp [Txs.voidSession]

theorem Txs.endSession_staged (t : Txs) (p : Station) (q : Seq) : (t.endSession p q).staged = t.staged := by
  simp [Txs.endSession, Txs.voidSession]

/-! ### Restarts, ends and associations of the state -/

section
variable {s : State} (hs : s.SessionsHold) (p : Station)
include hs

/-- A session restart with whatever entry follows it (R30, R32, R37). -/
theorem State.SessionsHold.restart {t : State} (hop : t.control.opState = s.control.opState)
    (htxs : t.txs = s.txs.voidSession p (s.peer p).oldestUnacked) (hpeer : ∀ q, p ≠ q → t.peer q = s.peer q)
    (hlive : (t.peer p).isLive = true) (hout : (t.peer p).outstanding = 0)
    (hwindow : ((t.peer p).heldLimit - (t.peer p).oldestUnacked).toNat ≤ 15) : t.SessionLaw ∧ t.WindowLaw := by
  obtain ⟨hslot, hsent, hstaged⟩ := Txs.voidSession_slot hs.slots p (s.peer p).oldestUnacked
  rw [← htxs] at hslot hsent hstaged
  have hreplaced : State.Replaced p s t := ⟨hop, htxs ▸ Txs.voidSession_staged _ _ _, hpeer, hslot⟩
  have hvacated : State.Vacated p s t := ⟨hsent, hstaged, fun hl => by rw [hlive] at hl; cases hl⟩
  exact ⟨hs.session.replaced hreplaced hvacated, hs.window.replaced hreplaced hvacated hout hwindow⟩

/-- A session end (R31). -/
theorem State.SessionsHold.sessionEnd (st : AssocState) (e : Epoch) :
    (s.sessionEnd p st e).SessionLaw ∧ (s.sessionEnd p st e).WindowLaw := by
  obtain ⟨hslot, hgone⟩ := Txs.endSession_slot hs.slots p (s.peer p).oldestUnacked
  have hreplaced : State.Replaced p s (s.sessionEnd p st e) :=
    ⟨rfl, Txs.endSession_staged _ _ _, fun q hq => State.peer_onPeer_ne _ hq _, hslot⟩
  have hvacated : State.Vacated p s (s.sessionEnd p st e) :=
    ⟨fun k => (hgone k).1, fun k _ => (hgone k).2, fun _ k => (hgone k).2⟩
  have hentry : (s.sessionEnd p st e).peer p
      = { PeerEntry.absentEntry with state := st, peerEpoch := e, sessionCount := (s.peer p).sessionCount + 1 } := by
    rw [State.sessionEnd_eq, State.peer_onPeer_self]
    rfl
  refine ⟨hs.session.replaced hreplaced hvacated, hs.window.replaced hreplaced hvacated ?_ ?_⟩
  · rw [hentry]
    simp [PeerEntry.outstanding, PeerEntry.absentEntry]
  · rw [hentry]
    simp [PeerEntry.absentEntry]

/-- The entry of a peer that is not LINKED changes, and no slot does: it has no SENT slot and no staged first send. -/
theorem State.SessionsHold.associate {t : State} (hop : t.control.opState = s.control.opState)
    (hstaged : t.txs.staged = s.txs.staged) (hslots : t.txs.slots = s.txs.slots)
    (hpeer : ∀ q, p ≠ q → t.peer q = s.peer q) (hp : (s.peer p).state ≠ .linked)
    (hlive : (s.peer p).isLive = true → (t.peer p).isLive = true)
    (hout : (t.peer p).outstanding = 0)
    (hwindow : ((t.peer p).heldLimit - (t.peer p).oldestUnacked).toNat ≤ 15) : t.SessionLaw ∧ t.WindowLaw := by
  have hslot : ∀ k, t.txs.slot k = s.txs.slot k := Txs.slot_congr hslots
  have hreplaced : State.Replaced p s t := ⟨hop, hstaged, hpeer, fun k => .inl (hslot k)⟩
  have hvacated : State.Vacated p s t := by
    refine ⟨fun k => ?_, fun k hk => ?_, fun hl k => ?_⟩
    · rw [hslot]
      exact hs.not_sent hp k
    · rw [hslot]
      by_contra hc
      exact hp (hs.linked_of_staged hk (by simpa using hc))
    · rw [hslot]
      refine hs.not_queued ?_ k
      by_contra hc
      rw [hlive (by simpa using hc)] at hl
      cases hl
  exact ⟨hs.session.replaced hreplaced hvacated, hs.window.replaced hreplaced hvacated hout hwindow⟩

theorem State.SessionsHold.forget (hp : (s.peer p).state = .lost) :
    (s.onPeer p fun e => { e with state := .absent, peerEpoch := 0 }).SessionLaw
      ∧ (s.onPeer p fun e => { e with state := .absent, peerEpoch := 0 }).WindowLaw := by
  have hne : (s.peer p).state ≠ .linked := by rw [hp]; decide
  have hentry := s.peer_onPeer_self p fun e => { e with state := .absent, peerEpoch := 0 }
  refine hs.associate p rfl rfl rfl (fun q hq => State.peer_onPeer_ne _ hq _) hne (fun hl => ?_) ?_ ?_
  · rw [PeerEntry.isLive, hp] at hl
    cases hl
  · rw [hentry]
    exact hs.outstanding_eq_zero (hs.not_sent hne)
  · rw [hentry]
    exact hs.window.size p

end

section
variable (s : State) (p : Station)

theorem State.restartNoticed_txs : (s.restartNoticed p).txs = s.txs.voidSession p (s.peer p).oldestUnacked := by
  unfold State.restartNoticed
  split <;> rfl

theorem State.restartNoticed_peer (q : Station) :
    (s.restartNoticed p).peer q = if p = q then (s.peer p).restarted s.cfg.ackDelay else s.peer q := by
  have hrestart := State.peer_onPeer (s.onTxs (Txs.voidSession p (s.peer p).oldestUnacked)) p q
    (PeerEntry.restarted s.cfg.ackDelay)
  unfold State.restartNoticed
  split <;> exact hrestart

end

/-- A restarted entry has an empty window (R30). -/
theorem PeerEntry.restarted_window (d : Nat) (e : PeerEntry) :
    (e.restarted d).window = ⟨e.state, 0, 0, 0, e.sessionCount + 1⟩ := by
  simp only [PeerEntry.restarted]
  split
  · rfl
  · rcases PeerEntry.setGrantPending_cases d { e with
      sessionCount := e.sessionCount + 1, grantLimit := e.grantLimit - e.expected, nextTxSeq := 0, oldestUnacked := 0
      heldLimit := 0, expected := 0, retryCount := 0, ackTimer := 0, ackDelayTimer := 0, ackPending := false
      grantPending := false, creditDue := false } with ⟨-, h⟩ | ⟨-, -, h⟩ | ⟨-, -, -, h⟩ | ⟨-, -, -, h⟩ <;>
      rw [h] <;> rfl

theorem PeerEntry.restarted_seqs (d : Nat) (e : PeerEntry) :
    (e.restarted d).nextTxSeq = 0 ∧ (e.restarted d).oldestUnacked = 0 ∧ (e.restarted d).heldLimit = 0 :=
  have h := PeerEntry.restarted_window d e
  ⟨congrArg SendWindow.nextTxSeq h, congrArg SendWindow.oldestUnacked h, congrArg SendWindow.heldLimit h⟩

section
variable {s : State} (hs : s.SessionsHold) {p : Station} {e : Epoch}
include hs

theorem State.SessionsHold.resynchronised :
    (s.resynchronised p e).SessionLaw ∧ (s.resynchronised p e).WindowLaw := by
  have hother : ∀ q, p ≠ q → (s.resynchronised p e).peer q = s.peer q := fun q hq => by
    rw [State.resynchronised, State.peer_onPeer_ne _ hq]
    split
    · rw [State.restartNoticed_peer, if_neg hq]
    · rfl
  have hlive : ((s.resynchronised p e).peer p).isLive = true := by
    rw [State.resynchronised, State.peer_onPeer_self]
    rfl
  have hop : (s.resynchronised p e).control.opState = s.control.opState := by
    rw [State.resynchronised, State.onPeer_control]
    split <;> simp
  by_cases hp : (s.peer p).isLive = true
  · have heq : s.resynchronised p e = (s.restartNoticed p).onPeer p fun x => { x with
        peerEpoch := e, state := .syncing, openPending := true, acceptPending := false
        joinTimer := s.cfg.ackTimeout, silenceTimer := silenceLimit s.cfg } := by
      rw [State.resynchronised, if_pos hp]
    obtain ⟨hnext, hold, hheld⟩ := PeerEntry.restarted_seqs s.cfg.ackDelay (s.peer p)
    refine hs.restart p hop ?_ hother hlive ?_ ?_
    · rw [heq]
      exact s.restartNoticed_txs p
    · rw [heq, State.peer_onPeer_self, State.restartNoticed_peer, if_pos rfl]
      simp [PeerEntry.outstanding, hnext, hold]
    · rw [heq, State.peer_onPeer_self, State.restartNoticed_peer, if_pos rfl]
      simp [hold, hheld]
  · have hne : (s.peer p).state ≠ .linked := fun h => hp (PeerEntry.isLive_iff.2 (.inr h))
    have heq : s.resynchronised p e = s.onPeer p fun x => { x with
        peerEpoch := e, state := .syncing, openPending := true, acceptPending := false
        joinTimer := s.cfg.ackTimeout, silenceTimer := silenceLimit s.cfg } := by
      rw [State.resynchronised, if_neg hp]
    refine hs.associate p hop ?_ ?_ hother hne (fun _ => hlive) ?_ ?_
    · rw [heq]
      rfl
    · rw [heq]
      rfl
    · rw [heq, State.peer_onPeer_self]
      exact hs.outstanding_eq_zero (hs.not_sent hne)
    · rw [heq, State.peer_onPeer_self]
      exact hs.window.size p

theorem State.SessionsHold.opened {l : Seq} (hl : l.toNat ≤ 15) :
    (s.opened p e l).SessionLaw ∧ (s.opened p e l).WindowLaw := by
  obtain ⟨hnext, hold, -⟩ := PeerEntry.restarted_seqs s.cfg.ackDelay (s.peer p)
  refine hs.restart p ?_ (s.restartNoticed_txs p) (fun q hq => ?_) ?_ ?_ ?_
  · exact congrArg Control.opState (s.restartNoticed_control p)
  · rw [State.opened, State.peer_onPeer_ne _ hq, State.restartNoticed_peer, if_neg hq]
  · rw [State.opened, State.peer_onPeer_self]
    rfl
  · rw [State.opened, State.peer_onPeer_self, State.restartNoticed_peer, if_pos rfl]
    simp [PeerEntry.outstanding, hnext, hold]
  · rw [State.opened, State.peer_onPeer_self, State.restartNoticed_peer, if_pos rfl]
    simpa [hold] using hl

/-- A withdrawal of one peer keeps the laws of the sessions (R133, R150). -/
theorem State.SessionsHold.withdrawPeer (p : Station) : (s.withdrawPeer p).SessionsHold := by
  rcases s.withdrawPeer_cases p with ⟨hp, h⟩ | ⟨hp, h⟩ | ⟨-, -, h⟩ <;> rw [h]
  · obtain ⟨hsession, hwindow⟩ := hs.sessionEnd p .absent 0
    exact ⟨hs.slots.change (.leave hp), hs.peers.change (.leave hp), hsession, hwindow⟩
  · obtain ⟨hsession, hwindow⟩ := hs.forget p hp
    exact ⟨hs.slots.change (.forget hp), hs.peers.change (.forget hp), hsession, hwindow⟩
  · exact hs

end

/-! ### The withdrawal of every peer -/

/-- What the withdrawals keep: the laws, the staging record, and that a slot still open is the slot it was. -/
structure State.WithdrawnFrom (s t : State) : Prop where
  holds : t.SessionsHold
  staged : t.txs.staged = s.txs.staged
  opens : ∀ k, (t.txs.slot k).isOpen = true → t.txs.slot k = s.txs.slot k

theorem State.SessionsHold.withdrawAll {s : State} (hs : s.SessionsHold) : s.WithdrawnFrom s.withdrawAll := by
  refine State.withdrawAll_induction (P := s.WithdrawnFrom) ⟨hs, rfl, fun _ _ => rfl⟩ fun t p ht => ?_
  refine ⟨ht.holds.withdrawPeer p, ?_, fun k hk => ?_⟩
  · rw [← ht.staged]
    rcases t.withdrawPeer_cases p with ⟨-, h⟩ | ⟨-, h⟩ | ⟨-, -, h⟩ <;> rw [h]
    · exact Txs.endSession_staged _ _ _
    · rfl
  · have hsame : (t.withdrawPeer p).txs.slot k = t.txs.slot k := by
      rcases t.withdrawPeer_cases p with ⟨-, h⟩ | ⟨-, h⟩ | ⟨-, -, h⟩
      · rw [h] at hk ⊢
        refine ((Txs.endSession_slot ht.holds.slots p (t.peer p).oldestUnacked).1 k).resolve_right fun hc => ?_
        exact absurd (hk.symm.trans (Slot.not_isOpen_of_isComplete hc.2)) (by decide)
      · rw [h]
        rfl
      · rw [h]
    rw [hsame] at hk ⊢
    exact ht.opens k hk

/-- After the withdrawal of every peer an open slot is a QUEUED GROUP (R29). -/
theorem State.SessionsHold.queued_of_withdrawn {s : State} (hs : s.SessionsHold) {k : Handle}
    (hk : (s.withdrawAll.txs.slot k).isOpen = true) :
    (s.withdrawAll.txs.slot k).isQueued = true ∧ ∀ p, (s.withdrawAll.txs.slot k).isQueuedTo p = false := by
  have hw := hs.withdrawAll.holds
  have hstate : ∀ p, (s.withdrawAll.peer p).isLive = false := fun p => by
    rw [State.peer_withdrawAll, PeerEntry.isLive, PeerEntry.withdrawn_state]
    split <;> rfl
  refine ⟨?_, fun p => hw.not_queued (hstate p) k⟩
  rcases hw.session.queued_or_sent hk with hq | ⟨p, hp⟩
  · exact hq
  · rw [hw.not_sent (fun h => ?_) k] at hp
    · cases hp
    · have hlive := PeerEntry.isLive_iff.2 (.inr h)
      rw [hstate] at hlive
      cases hlive

/-- The slots that LEAVE cancels are QUEUED and not staged (R112, R150). -/
theorem State.SessionsHold.unstagedCancelled {s : State} (hs : s.SessionsHold) :
    s.unstagedCancelled.SessionsHold
      ∧ ∀ k, (s.unstagedCancelled.txs.slot k).isQueued = true → s.txs.stagedHandle = some k := by
  have hslot : ∀ k, s.unstagedCancelled.txs.slot k
      = if k ∈ s.txs.unstagedQueued then (s.txs.slot k).completed .cancelled else s.txs.slot k :=
    Txs.slot_completeAll _ _ _
  have hmem : ∀ k, k ∈ s.txs.unstagedQueued →
      (s.txs.slot k).isQueued = true ∧ s.txs.stagedHandle ≠ some k := fun k hk => by
    have hk := (List.mem_filter.1 hk).2
    simpa using hk
  have hclose : ∀ k, s.unstagedCancelled.txs.slot k = s.txs.slot k
      ∨ (s.txs.slot k).isQueued = true ∧ (s.unstagedCancelled.txs.slot k).isComplete = true := fun k => by
    rw [hslot]
    split
    next hk =>
      refine .inr ⟨(hmem k hk).1, ?_⟩
      rw [Slot.isComplete_completed, Slot.isOpen_of_isQueued (hmem k hk).1, Bool.true_or]
    next => exact .inl rfl
  have hstaged : s.unstagedCancelled.txs.staged = s.txs.staged := Txs.completeAll_staged _ _ _
  refine ⟨⟨hs.slots.completeAll _ _, hs.peers, ?_, hs.window.close (fun _ => rfl) hclose⟩, fun k hk => ?_⟩
  · refine hs.session.close rfl (fun _ => rfl) hclose (.inl ⟨hstaged, fun k hk => ?_⟩)
    rw [hslot, if_neg]
    intro hm
    exact (hmem k hm).2 (by rw [Txs.stagedHandle, hk]; rfl)
  · rw [hslot] at hk
    split at hk
    next => rw [Slot.isQueued_completed] at hk; cases hk
    next hno =>
      by_contra hc
      refine hno (List.mem_filter.2 ⟨hs.slots.mem_order (Slot.isOpen_of_isQueued hk), ?_⟩)
      simpa [hk] using hc

end Sys2Proof.Machine
end

section
/-! PROOFS. Acknowledgements keep the laws of the sessions. -/

namespace Sys2Proof.Machine

/-! ### Ack and limit processing (R49 to R53) -/

/-- The entry after a valid ack (R51). -/
def PeerEntry.acked (a : Seq) (ackTimer : Nat) (e : PeerEntry) : PeerEntry :=
  if a = e.oldestUnacked then e else { e with oldestUnacked := a, retryCount := 0, ackTimer := ackTimer }

/-- What ack and limit processing does: the SENT slots before the ack complete DELIVERED, and the peer's entry takes ack and
limit (R49, R51, R53). -/
structure State.TakesAckLimit (s : State) (p : Station) (a l : Seq) (t : State) : Prop where
  valid : (a - (s.peer p).oldestUnacked).toNat ≤ (s.peer p).outstanding
  limit : (l - a).toNat ≤ 15
  control : t.control = s.control
  txs : t.txs = s.txs.completeAll .delivered
    (s.txs.sentInSequence p (s.peer p).oldestUnacked (a - (s.peer p).oldestUnacked).toNat)
  entry : t.peer p = ((s.peer p).acked a (if t.txs.anySent p then s.cfg.ackTimeout else 0)).takeLimit a l
  others : ∀ q, p ≠ q → t.peer q = s.peer q

theorem State.takesAckLimit {s t : State} {p : Station} {a l : Seq} (ht : s.takeAckLimit p a l = some t) :
    s.TakesAckLimit p a l t := by
  have htxs := State.takeAckLimit_txs ht
  rw [State.takeAck_txs] at htxs
  have hcontrol : t.control = s.control := congrArg ControlView.control (State.controlView_takeAckLimit ht)
  unfold State.takeAckLimit at ht
  split at ht
  next hvalid =>
    simp only [PeerEntry.ackValid, limitValid, Bool.and_eq_true, decide_eq_true_eq] at hvalid
    obtain rfl := Option.some.inj ht
    by_cases ha : a = (s.peer p).oldestUnacked
    · have hsame : s.takeAck p a = s := by simp only [State.takeAck, if_pos ha]
      refine ⟨hvalid.1, hvalid.2, hcontrol, ?_, ?_, fun q hq => ?_⟩
      · rw [htxs, if_pos ha, ha, sub_self]
        rfl
      · rw [State.peer_onPeer_self, hsame, PeerEntry.acked, if_pos ha]
      · rw [State.peer_onPeer_ne _ hq, hsame]
    · rw [if_neg ha] at htxs
      refine ⟨hvalid.1, hvalid.2, hcontrol, htxs, ?_, fun q hq => ?_⟩
      · rw [State.peer_onPeer_self, PeerEntry.acked, if_neg ha, htxs]
        simp only [State.takeAck, if_neg ha, State.peer_onPeer_self]
        rfl
      · rw [State.peer_onPeer_ne _ hq]
        simp only [State.takeAck, if_neg ha]
        exact State.peer_onPeer_ne _ hq _
  next => cases ht

theorem PeerEntry.acked_window (a : Seq) (ackTimer : Nat) (e : PeerEntry) :
    (e.acked a ackTimer).window = { e.window with oldestUnacked := a } := by
  unfold PeerEntry.acked
  split
  next ha =>
    subst ha
    rfl
  next => rfl

/-- The window after ack and limit: the ack is the oldest unacknowledged seq, and the limit is taken unless it is behind
(R51, R53). -/
theorem PeerEntry.takeLimit_window (a l : Seq) (ackTimer : Nat) (e : PeerEntry) :
    ((e.acked a ackTimer).takeLimit a l).window
      = { e.window with
          oldestUnacked := a, heldLimit := if (e.heldLimit - a).toNat ≤ (l - a).toNat then l else e.heldLimit } := by
  have hw := e.acked_window a ackTimer
  have hheld : (e.acked a ackTimer).heldLimit = e.heldLimit := congrArg SendWindow.heldLimit hw
  unfold PeerEntry.takeLimit
  rw [hheld]
  split
  · exact congrArg (fun w : SendWindow => { w with heldLimit := l }) hw
  · exact hw

section
variable {s t : State} {p : Station} {a l : Seq} (h : s.TakesAckLimit p a l t)
include h

theorem State.TakesAckLimit.seqs :
    (t.peer p).state = (s.peer p).state ∧ (t.peer p).sessionCount = (s.peer p).sessionCount
      ∧ (t.peer p).nextTxSeq = (s.peer p).nextTxSeq ∧ (t.peer p).oldestUnacked = a
      ∧ (t.peer p).heldLimit
          = if ((s.peer p).heldLimit - a).toNat ≤ (l - a).toNat then l else (s.peer p).heldLimit := by
  have hw := (congrArg PeerEntry.window h.entry).trans (PeerEntry.takeLimit_window _ _ _ _)
  exact ⟨congrArg SendWindow.state hw, congrArg SendWindow.sessionCount hw, congrArg SendWindow.nextTxSeq hw,
    congrArg SendWindow.oldestUnacked hw, congrArg SendWindow.heldLimit hw⟩

/-- The window slides up to the ack and may grow at its upper end (R48, R51, R53). -/
theorem State.TakesAckLimit.window (hs : s.WindowLaw) :
    (t.peer p).outstanding + (a - (s.peer p).oldestUnacked).toNat = (s.peer p).outstanding
      ∧ (t.peer p).outstanding ≤ ((t.peer p).heldLimit - a).toNat ∧ ((t.peer p).heldLimit - a).toNat ≤ 15
      ∧ (1 ≤ (s.peer p).heldCredit → 1 ≤ (t.peer p).heldCredit) := by
  obtain ⟨-, -, hnext, hold, hheld⟩ := h.seqs
  obtain ⟨hspan, hwindow, -⟩ := hs p
  have hvalid := h.valid
  have hlimit := h.limit
  simp only [PeerEntry.outstanding, PeerEntry.heldCredit, hnext, hold, hheld] at *
  split
  · refine ⟨?_, ?_, hlimit, fun hcredit => ?_⟩ <;> bv_omega
  · refine ⟨?_, ?_, ?_, fun hcredit => ?_⟩ <;> bv_omega

end

section
variable {s t : State} (hs : s.SessionsHold) {p : Station} {a l : Seq} (h : s.TakesAckLimit p a l t)
include hs h

/-- The SENT slots before the ack have completed, and nothing else has (R51). -/
theorem State.SessionsHold.slot_acked (k : Handle) :
    t.txs.slot k = s.txs.slot k
        ∧ (∀ q, (s.txs.slot k).isSentAs p q = true →
            (a - (s.peer p).oldestUnacked).toNat ≤ (q - (s.peer p).oldestUnacked).toNat)
      ∨ ∃ q, (s.txs.slot k).isSentAs p q = true
          ∧ (q - (s.peer p).oldestUnacked).toNat < (a - (s.peer p).oldestUnacked).toNat
          ∧ t.txs.slot k = (s.txs.slot k).completed .delivered := by
  rw [h.txs, Txs.slot_completeAll]
  split
  next hm =>
    obtain ⟨n, hn, -, hsent⟩ := Txs.mem_sentInSequence.1 hm
    refine .inr ⟨_, hsent, ?_, rfl⟩
    have := (a - (s.peer p).oldestUnacked).isLt
    rw [add_sub_cancel_left, BitVec.toNat_ofNat]
    omega
  next hm =>
    refine .inl ⟨rfl, fun q hsent => ?_⟩
    by_contra hlt
    refine hm (Txs.mem_sentInSequence.2 ⟨(q - (s.peer p).oldestUnacked).toNat, by omega, ?_, ?_⟩)
    · exact hs.slots.mem_order (Slot.isOpen_of_isSentAs hsent)
    · rwa [BitVec.ofNat_toNat, BitVec.setWidth_eq, add_sub_cancel]

/-- Ack and limit processing keeps the law of the slots' peers: what it completes was SENT. -/
theorem State.SessionsHold.ackLimit_session : t.SessionLaw := by
  obtain ⟨hstate, hcount, hnext, -, -⟩ := h.seqs
  have hcredit := (h.window hs.window).2.2.2
  have hstates : ∀ q, (t.peer q).state = (s.peer q).state := fun q => by
    by_cases hq : p = q
    · exact hq ▸ hstate
    · rw [h.others q hq]
  have hsustains : ∀ q, (s.peer q).Sustains (t.peer q) := fun q => by
    by_cases hq : p = q
    · exact hq ▸ ⟨hstate, hcount, hnext, hcredit⟩
    · rw [h.others q hq]
      exact PeerEntry.sustains_of_window rfl
  have hslot : ∀ k, t.txs.slot k = s.txs.slot k ∨ (s.txs.slot k).isOpen = true ∧ (s.txs.slot k).isQueued = false
      ∧ (t.txs.slot k).isOpen = false ∧ (t.txs.slot k).isComplete = true := fun k => by
    rcases hs.slot_acked h k with ⟨hk, -⟩ | ⟨q, hsent, -, hk⟩
    · exact .inl hk
    · rw [hk]
      refine .inr ⟨Slot.isOpen_of_isSentAs hsent, ?_, Slot.isOpen_completed _ _, ?_⟩
      · by_contra hq
        rw [Slot.isSentAs_of_isQueued (by simpa using hq)] at hsent
        cases hsent
      · rw [Slot.isComplete_completed, Slot.isOpen_of_isSentAs hsent, Bool.true_or]
  have hopen : ∀ k, (t.txs.slot k).isOpen = true → t.txs.slot k = s.txs.slot k := fun k ho =>
    (hslot k).resolve_right fun hc => absurd (ho.symm.trans hc.2.2.1) (by decide)
  have hstaged : t.txs.staged = s.txs.staged := by rw [h.txs, Txs.completeAll_staged]
  obtain ⟨h1, h2, h3, h4, h5, h6⟩ := hs.session
  refine ⟨fun k q hk => ?_, fun k hk => ?_, fun k q hk => ?_, fun he k => ?_, fun hl k hk => ?_, fun r hr => ?_⟩
  · rw [hstates]
    exact h1 k q (hopen k (Slot.isOpen_of_isSentTo hk) ▸ hk)
  · have hsame := hopen k hk
    rw [hsame] at hk ⊢
    exact h2 k hk
  · rw [PeerEntry.isLive, hstates]
    exact h3 k q (hopen k (Slot.isOpen_of_isQueuedTo hk) ▸ hk)
  · rcases hslot k with hk | hk
    · rw [hk]
      exact h4 (by rwa [State.enabled, ← h.control]) k
    · exact hk.2.2.1
  · rw [hstaged]
    exact h5 (h.control ▸ hl) k (hopen k hk ▸ hk)
  · rw [hstaged] at hr
    refine (h6 r hr).transfer fun k hk => ?_
    rcases hslot k with hsame | ⟨-, hnq, -, hc⟩
    · exact .inl ⟨Slot.alike_of_eq hsame, fun q _ => hsustains q⟩
    · refine .inr ⟨hc, fun hg => ?_⟩
      subst hg
      rw [(h6 _ hr).1] at hnq
      cases hnq

/-- The outstanding span shrinks by just the seqs whose slots have completed. -/
theorem State.SessionsHold.ackLimit_window : t.WindowLaw := by
  obtain ⟨-, -, hnext, hold, hheld⟩ := h.seqs
  obtain ⟨hout, hspan, hwindow, -⟩ := h.window hs.window
  intro q
  by_cases hq : p = q
  · subst hq
    rw [hold]
    refine ⟨hspan, hwindow, fun n => ?_⟩
    have hcount := hs.window.count p n
    have hbound := hs.window.outstanding_le p
    by_cases hn : (n - (s.peer p).oldestUnacked).toNat < (a - (s.peer p).oldestUnacked).toNat
    · have hnone : (handles.filter fun k => (t.txs.slot k).isSentAs p n) = [] := by
        refine List.filter_eq_nil_iff.2 fun k _ hk => ?_
        rcases hs.slot_acked h k with ⟨hsame, hlate⟩ | ⟨_, -, -, hdone⟩
        · have := hlate n (hsame ▸ hk)
          omega
        · rw [hdone, Slot.isSentAs_completed] at hk
          cases hk
      rw [hnone, if_neg]
      · rfl
      · bv_omega
    · have hsame : ∀ k, (t.txs.slot k).isSentAs p n = (s.txs.slot k).isSentAs p n := fun k => by
        rcases hs.slot_acked h k with ⟨hsame, -⟩ | ⟨m, hm, hlt, hdone⟩
        · rw [hsame]
        · rw [hdone, Slot.isSentAs_completed]
          symm
          by_contra hc
          have := Slot.isSentAs_inj hm (by simpa using hc)
          subst this
          exact hn hlt
      simp only [hsame, hcount]
      have hiff : (n - (s.peer p).oldestUnacked).toNat < (s.peer p).outstanding
          ↔ (n - a).toNat < (t.peer p).outstanding := by bv_omega
      simp only [hiff]
  · rw [h.others q hq]
    have hsame : ∀ k n, (t.txs.slot k).isSentAs q n = (s.txs.slot k).isSentAs q n := fun k n => by
      rcases hs.slot_acked h k with ⟨hsame, -⟩ | ⟨m, hm, -, hdone⟩
      · rw [hsame]
      · rw [hdone, Slot.isSentAs_completed]
        exact (Slot.isSentAs_of_ne (.inl (Slot.isSentTo_iff.2 ⟨m, hm⟩)) hq n).symm
    simp only [hsame]
    exact hs.window q

/-- An ACCEPT finds nothing outstanding, so no slot completes (R39). -/
theorem State.SessionsHold.accept (hp : (s.peer p).state = .syncing) :
    (t.onPeer p PeerEntry.accepted).SessionLaw ∧ (t.onPeer p PeerEntry.accepted).WindowLaw := by
  have hne : (s.peer p).state ≠ .linked := by rw [hp]; decide
  have hzero := hs.outstanding_eq_zero (hs.not_sent hne)
  have hvalid := h.valid
  obtain ⟨-, -, hnext, hold, -⟩ := h.seqs
  obtain ⟨hout, -, hwindow, -⟩ := h.window hs.window
  have htxs : t.txs = s.txs := by
    rw [h.txs, show (a - (s.peer p).oldestUnacked).toNat = 0 by omega]
    rfl
  have hentry := t.peer_onPeer_self p PeerEntry.accepted
  refine hs.associate p ?_ ?_ ?_ (fun q hq => ?_) hne (fun _ => ?_) ?_ ?_
  · exact congrArg Control.opState h.control
  · exact congrArg Txs.staged htxs
  · exact congrArg Txs.slots htxs
  · rw [State.peer_onPeer_ne _ hq, h.others q hq]
  · rw [hentry]
    rfl
  · rw [hentry]
    have hzero' : (t.peer p).outstanding = 0 := by omega
    exact hzero'
  · rw [hentry]
    have hwindow' : ((t.peer p).heldLimit - (t.peer p).oldestUnacked).toNat ≤ 15 := by rwa [hold]
    exact hwindow'

end

end Sys2Proof.Machine
end

section
/-! PROOFS. Outcomes of staged frames, stagings, and the slots of the host: each keeps the laws of the sessions. -/

namespace Sys2Proof.Machine

/-! ### The view after a change of one entry -/

/-- A change of one entry that leaves its send window is none to the view. -/
theorem State.sessionView_onPeer {s : State} {p : Station} {f : PeerEntry → PeerEntry}
    (h : (f (s.peer p)).window = (s.peer p).window) : (s.onPeer p f).sessionView = s.sessionView := by
  have hw : ∀ q, ((s.onPeer p f).peer q).window = (s.peer q).window := fun q => by
    rw [State.peer_onPeer]
    split
    next hq =>
      subst hq
      exact h
    next => rfl
  simp only [State.sessionView, hw]
  rfl

theorem PeerEntry.carry_window (c : Carried) (e : PeerEntry) : (e.carry c).window = e.window := by
  simp only [PeerEntry.carry]
  split <;> rfl

theorem PeerEntry.controlDone_window (k : ControlKind) (c : Carried) (e : PeerEntry) :
    (e.controlDone k c).window = e.window := by
  unfold PeerEntry.controlDone
  split
  · cases k <;> rfl
  · rfl

theorem State.sessionView_carry (s : State) (p : Station) (c : Carried) : (s.carry p c).sessionView = s.sessionView :=
  State.sessionView_onPeer (PeerEntry.carry_window _ _)

theorem State.sessionView_controlOk (s : State) (k : ControlKind) (p : Station) (c : Carried) :
    (s.controlOk k p c).sessionView = s.sessionView := by
  have hpointer : ∀ v : State, (v.onTxs fun t => { t with controlPtr := p }).sessionView = v.sessionView := fun _ => rfl
  rw [State.controlOk, hpointer, State.sessionView_carry]
  exact State.sessionView_onPeer (PeerEntry.controlDone_window k c _)

theorem State.sessionView_helloOk (s : State) (e : Epoch) : (s.helloOk e).sessionView = s.sessionView := by
  unfold State.helloOk
  split <;> rfl

/-- A slot replaced by one that differs in its resend mark is none to the view. -/
theorem State.sessionView_setSlot {s : State} {h : Handle} {x : Slot} (hx : x.Alike (s.txs.slot h)) :
    (s.onTxs (Txs.setSlot h x)).sessionView = s.sessionView := by
  have hslot : ∀ k, ((s.txs.setSlot h x).slot k).withMark false = (s.txs.slot k).withMark false := fun k => by
    rw [Txs.slot_setSlot]
    split
    next hk =>
      subst hk
      exact hx
    next => rfl
  simp only [State.sessionView, State.onTxs_txs, hslot]
  rfl

theorem State.sessionView_resendOk (s : State) (h : Option Handle) (p : Station) (q : Seq) (c : Carried) :
    (s.resendOk h p q c).sessionView = s.sessionView := by
  refine (State.sessionView_carry _ p c).trans ?_
  split
  · rfl
  · split
    · exact State.sessionView_setSlot (s := s.count .retransmissions) (Slot.withMark_withMark _ _ _)
    · rfl

/-! ### Staging records that are cleared -/

section
variable {s t : State} (hs : s.SessionsHold)
include hs

/-- In LEAVING no slot is open unless a GROUP is staged (R151). -/
theorem State.SessionsHold.closed_of_leaving (ho : s.control.opState = .leaving)
    (hst : ∀ k, s.txs.staged ≠ some (.group (some k))) (k : Handle) : (s.txs.slot k).isOpen = false := by
  by_contra hk
  exact hst k (hs.session.leaving ho (by simpa using hk))

/-- An outcome that changes resend marks, flags and timers at most, and clears the staging record (R109). -/
theorem State.SessionsHold.cleared (ht : t.sessionView = { s.sessionView with staged := none })
    (hl : s.control.opState = .leaving → ∀ k, (s.txs.slot k).isOpen = false) : t.SessionLaw ∧ t.WindowLaw := by
  have hclosed : s.clearStaged.SessionLaw := hs.session.close rfl (fun _ => rfl) (fun _ => .inl rfl) (.inr ⟨rfl, hl⟩)
  have hwindow : s.clearStaged.WindowLaw := hs.window
  exact ⟨State.sessionLaw_of_view (s := s.clearStaged) ht hclosed,
    State.windowLaw_of_view (s := s.clearStaged) ht hwindow⟩

/-- As `cleared`, for an outcome of a frame that is no staged GROUP. -/
theorem State.SessionsHold.cleared_of_staged {u : State} {r : StagingRecord} (hr : s.txs.staged = some r)
    (hg : ∀ k, r ≠ .group (some k)) (hu : u.sessionView = s.sessionView) :
    u.clearStaged.SessionLaw ∧ u.clearStaged.WindowLaw := by
  refine hs.cleared (congrArg (fun v : SessionView => { v with staged := none }) hu) fun ho => ?_
  exact hs.closed_of_leaving ho fun k hk => hg k (Option.some.inj (hr.symm.trans hk))

/-- A QUEUED GROUP that was staged completes, and the record is cleared (R108, R111). -/
theorem State.SessionsHold.groupCompleted {h : Handle} (o : SlotOutcome) (hst : s.txs.staged = some (.group (some h))) :
    (s.onTxs (Txs.complete o h)).clearStaged.SessionLaw ∧ (s.onTxs (Txs.complete o h)).clearStaged.WindowLaw := by
  have hqueued := (hs.session.stands hst).1
  have hslot : ∀ k, (s.txs.complete o h).slot k = s.txs.slot k
      ∨ (s.txs.slot k).isQueued = true ∧ ((s.txs.complete o h).slot k).isComplete = true := fun k => by
    rw [Txs.slot_complete]
    split
    next hk =>
      subst hk
      refine .inr ⟨hqueued, ?_⟩
      rw [Slot.isComplete_completed, Slot.isOpen_of_isQueued hqueued, Bool.true_or]
    next => exact .inl rfl
  refine ⟨hs.session.close rfl (fun _ => rfl) hslot (.inr ⟨rfl, fun ho k => ?_⟩),
    hs.window.close (fun _ => rfl) hslot⟩
  change ((s.txs.complete o h).slot k).isOpen = false
  rw [Txs.slot_complete]
  split
  next => exact Slot.isOpen_completed _ _
  next hk =>
    by_contra hopen
    have hsame := hst.symm.trans (hs.session.leaving ho (by simpa using hopen))
    cases hsame
    exact hk rfl

theorem State.SessionsHold.groupSent {h : Option Handle} (hst : s.txs.staged = some (.group h)) :
    (s.onTxs (Txs.sendStagedGroup h)).clearStaged.SessionLaw
      ∧ (s.onTxs (Txs.sendStagedGroup h)).clearStaged.WindowLaw := by
  cases h with
  | none => exact hs.cleared_of_staged hst nofun rfl
  | some h =>
    have hsend : s.txs.sendStagedGroup (some h) = s.txs.complete .sent h := if_pos (hs.session.stands hst).1
    have hcompleted := hs.groupCompleted .sent hst
    simp only [State.onTxs, hsend]
    exact hcompleted

theorem State.SessionsHold.takeFailure : s.takeFailure.SessionLaw ∧ s.takeFailure.WindowLaw := by
  unfold State.takeFailure
  split
  next ho =>
    by_cases hst : ∃ k, s.txs.staged = some (.group (some k))
    · obtain ⟨k, hst⟩ := hst
      have hcancel : s.txs.cancelStagedGroup = s.txs.complete .cancelled k := by
        rw [Txs.cancelStagedGroup, hst]
        exact if_pos (hs.session.stands hst).1
      have hcompleted := hs.groupCompleted .cancelled hst
      simp only [State.onTxs, hcancel]
      exact hcompleted
    · have hnone : s.txs.cancelStagedGroup = s.txs := by
        unfold Txs.cancelStagedGroup
        split
        next k hk => exact absurd ⟨k, hk⟩ hst
        next => rfl
      simp only [State.onTxs, hnone]
      exact hs.cleared rfl fun ho => hs.closed_of_leaving ho fun k hk => hst ⟨k, hk⟩
  next ho => exact hs.cleared rfl fun h => absurd h ho

end

/-! ### First sends -/

/-- One handle among all. -/
theorem handles_filter_eq : ∀ h : Handle, (handles.filter fun k => decide (h = k)).length = 1 := by decide

/-- A first send is on the line and its slot, entry and session stand as they were staged (R107). -/
structure State.FirstSendStands (s : State) (p : Station) (h : Handle) (m : Message) : Prop where
  slot : s.txs.slot h = .queued m
  target : m.target = .data p
  linked : (s.peer p).state = .linked
  credit : 1 ≤ (s.peer p).heldCredit

section
variable {s t : State} {p : Station} {h : Handle} {m : Message} {marked : Bool}
  (hs : s.SessionsHold) (hf : s.FirstSendStands p h m)
  (hop : t.control.opState = s.control.opState) (hstaged : t.txs.staged = none)
  (hslot : ∀ k, t.txs.slot k = if h = k then .sent m (s.peer p).nextTxSeq marked else s.txs.slot k)
  (hpeer : ∀ q, p ≠ q → t.peer q = s.peer q)
  (hentry : (t.peer p).window = { (s.peer p).window with nextTxSeq := (s.peer p).nextTxSeq + 1 })
include hs hf hop hstaged hslot hpeer hentry

theorem State.SessionsHold.firstSent_session : t.SessionLaw := by
  obtain ⟨h1, h2, h3, -, -, -⟩ := hs.session
  have hrunning : t.control.opState = .running := by
    have := hs.peers.running (PeerEntry.isLive_iff.2 (.inr hf.linked))
    rw [hop]
    simpa [State.isRunning] using this
  have hstate : ∀ q, (t.peer q).state = (s.peer q).state := fun q => by
    by_cases hq : p = q
    · exact hq ▸ congrArg SendWindow.state hentry
    · rw [hpeer q hq]
  refine ⟨fun k q hk => ?_, fun k hk => ?_, fun k q hk => ?_, fun he => ?_, fun hl => ?_, fun r hr => ?_⟩
  · rw [hstate]
    rw [hslot] at hk
    split at hk
    · have hq : p = q := by simpa [Slot.isSentTo, hf.target] using hk
      exact hq ▸ hf.linked
    · exact h1 k q hk
  · rw [hslot] at hk ⊢
    split
    · exact .inr ⟨p, by simp [Slot.isSentTo, hf.target]⟩
    next hne =>
      rw [if_neg hne] at hk
      exact h2 k hk
  · rw [PeerEntry.isLive, hstate]
    rw [hslot] at hk
    split at hk
    · cases hk
    · exact h3 k q hk
  · rw [State.enabled, hrunning] at he
    cases he
  · rw [hrunning] at hl
    cases hl
  · rw [hstaged] at hr
    cases hr

omit hop hstaged in
theorem State.SessionsHold.firstSent_window : t.WindowLaw := by
  intro q
  by_cases hq : p = q
  · subst hq
    have hnext : (t.peer p).nextTxSeq = (s.peer p).nextTxSeq + 1 := congrArg SendWindow.nextTxSeq hentry
    have hold : (t.peer p).oldestUnacked = (s.peer p).oldestUnacked := congrArg SendWindow.oldestUnacked hentry
    have hheld : (t.peer p).heldLimit = (s.peer p).heldLimit := congrArg SendWindow.heldLimit hentry
    obtain ⟨hspan, hwindow, hcount⟩ := hs.window p
    have hcredit := hf.credit
    have hgrown : (t.peer p).outstanding = (s.peer p).outstanding + 1
        ∧ (s.peer p).outstanding + 1 ≤ ((s.peer p).heldLimit - (s.peer p).oldestUnacked).toNat := by
      simp only [PeerEntry.outstanding, PeerEntry.heldCredit, hnext, hold] at *
      constructor <;> bv_omega
    rw [hgrown.1, hheld, hold]
    refine ⟨hgrown.2, hwindow, fun n => ?_⟩
    by_cases hn : n = (s.peer p).nextTxSeq
    · have hspot : (n - (s.peer p).oldestUnacked).toNat = (s.peer p).outstanding := by rw [hn]; rfl
      have hnone : (handles.filter fun k => (s.txs.slot k).isSentAs p n) = [] := by
        rw [← List.length_eq_zero_iff, hcount n, if_neg (by omega)]
      have hsent : ∀ k, (t.txs.slot k).isSentAs p n = decide (h = k) := fun k => by
        rw [hslot]
        split
        next hk => simp [Slot.isSentAs, hf.target, hn, hk]
        next hk =>
          rw [decide_eq_false hk]
          exact Bool.eq_false_iff.2 (List.filter_eq_nil_iff.1 hnone k (List.mem_finRange k))
      simp only [hsent]
      rw [handles_filter_eq, if_pos (by omega)]
    · have hsent : ∀ k, (t.txs.slot k).isSentAs p n = (s.txs.slot k).isSentAs p n := fun k => by
        rw [hslot]
        split
        next hk =>
          rw [← hk, hf.slot]
          simp [Slot.isSentAs, Ne.symm hn]
        next => rfl
      have hspot : (n - (s.peer p).oldestUnacked).toNat ≠ (s.peer p).outstanding := fun hc =>
        hn (sub_left_injective (BitVec.eq_of_toNat_eq hc))
      have hiff : (n - (s.peer p).oldestUnacked).toNat < (s.peer p).outstanding + 1
          ↔ (n - (s.peer p).oldestUnacked).toNat < (s.peer p).outstanding := by omega
      simp only [hsent, hcount n, hiff]
  · have hsent : ∀ k n, (t.txs.slot k).isSentAs q n = (s.txs.slot k).isSentAs q n := fun k n => by
      rw [hslot]
      split
      next hk =>
        rw [← hk, hf.slot]
        simp [Slot.isSentAs, hf.target, hq]
      next => rfl
    simp only [hpeer q hq, hsent]
    exact hs.window q

end

/-- SENT_OK of a first send: its slot bears the next seq, or nothing that the laws look at changes (R107). -/
theorem State.SessionsHold.firstSent {s : State} (hs : s.SessionsHold) {h : Option Handle} {p : Station} {q : Seq}
    {c : Carried} (hst : s.txs.staged = some (.firstSend h p q c)) :
    (s.firstSendOk h p q c).clearStaged.SessionLaw ∧ (s.firstSendOk h p q c).clearStaged.WindowLaw := by
  have hother : ∀ (txs : Txs) (e : PeerEntry) (r : Station), p ≠ r → (s.outcomeLeft p c txs e).peer r = s.peer r :=
    fun txs e r hr => State.peer_onPeer_ne s hr fun _ => e.carry c
  have hself : ∀ (txs : Txs) (e : PeerEntry), ((s.outcomeLeft p c txs e).peer p).window = e.window := fun txs e =>
    (congrArg PeerEntry.window (State.peer_onPeer_self s p fun _ => e.carry c)).trans (PeerEntry.carry_window c e)
  by_cases hm : ∃ h' m, h = some h' ∧ s.StandsAs p c h' m
  · obtain ⟨h', m, rfl, hm⟩ := hm
    rw [State.firstSendOk_stands hm]
    obtain ⟨-, hopen⟩ := hs.session.stands hst
    obtain ⟨-, hlinked, -, rfl, hcredit⟩ := hopen (by rw [hm.1]; rfl)
    have hf : s.FirstSendStands p h' m := ⟨hm.1, hm.2.1, hlinked, hcredit⟩
    have hslot := fun k => s.txs.slot_setSlot h' k (.sent m (s.peer p).nextTxSeq (s.txs.anyMarked p))
    exact ⟨hs.firstSent_session hf rfl rfl hslot (hother _ _) (hself _ _),
      hs.firstSent_window hf hslot (hother _ _) (hself _ _)⟩
  · rw [State.firstSendOk_fallen fun h' m hh hstands => hm ⟨h', m, hh, hstands⟩]
    have hview : (s.outcomeLeft p c s.txs (s.peer p)).sessionView = { s.sessionView with staged := none } :=
      congrArg (fun v : SessionView => { v with staged := none }) (s.sessionView_carry p c)
    exact hs.cleared hview fun ho => hs.closed_of_leaving ho fun k hk => nomatch hst.symm.trans hk

/-! ### Stagings -/

/-- What a chosen DATA candidate rests on (R100). -/
def State.Backs (s : State) : Candidate → Prop
  | .firstSend h p => s.dataCandidate p = some (.firstSend h p)
  | .resend h p => s.dataCandidate p = some (.resend h p)
  | _ => True

theorem State.backs_of_resendOf {s : State} {h : Handle} {c : Candidate} (hc : s.resendOf h = some c) : s.Backs c := by
  unfold State.resendOf at hc
  split at hc
  · split at hc
    · split at hc
      next hd =>
        cases hc
        exact hd
      next => cases hc
    · cases hc
  · cases hc

theorem State.backs_of_messageOf {s : State} {h : Handle} {c : Candidate} (hc : s.messageOf h = some c) : s.Backs c := by
  unfold State.messageOf at hc
  split at hc
  · split at hc
    · split at hc
      next hd =>
        cases hc
        exact hd
      next => cases hc
    · split at hc
      · cases hc
        trivial
      · cases hc
  · cases hc

theorem State.backs_of_choiceAt {s : State} {u : BitVec 2} {c : Candidate} (hc : s.choiceAt u = some c) : s.Backs c := by
  unfold State.choiceAt at hc
  rcases Option.or_eq_some_iff.1 hc with hc | ⟨-, hc⟩
  · rcases Option.or_eq_some_iff.1 hc with hc | ⟨-, hc⟩
    · obtain ⟨h, -, hc⟩ := List.exists_of_findSome?_eq_some hc
      exact State.backs_of_resendOf hc
    · obtain ⟨h, -, hc⟩ := List.exists_of_findSome?_eq_some hc
      exact State.backs_of_messageOf hc
  · split at hc
    · cases hc
      trivial
    · cases hc

/-- A chosen first send or resend is its peer's DATA candidate (R100, R103). -/
theorem State.backs_of_choose {s : State} {c : Candidate} (hc : s.choose = some c) : s.Backs c := by
  unfold State.choose at hc
  rcases Option.or_eq_some_iff.1 hc with hc | ⟨-, hc⟩
  · rcases Option.or_eq_some_iff.1 hc with hc | ⟨-, hc⟩
    · rcases Option.or_eq_some_iff.1 hc with hc | ⟨-, hc⟩
      · rcases Option.or_eq_some_iff.1 hc with hc | ⟨-, hc⟩
        · obtain ⟨k, -, hc⟩ := List.exists_of_findSome?_eq_some hc
          obtain ⟨p, -, rfl⟩ := Option.map_eq_some_iff.1 hc
          trivial
        · split at hc
          · cases hc
            trivial
          · cases hc
      · exact State.backs_of_choiceAt hc
    · exact State.backs_of_choiceAt hc
  · exact State.backs_of_choiceAt hc

theorem mem_of_leastBy {key : Handle → Nat} {hs : List Handle} {h : Handle} (hh : leastBy key hs = some h) : h ∈ hs := by
  induction hs generalizing h with
  | nil => cases hh
  | cons k rest ih =>
    unfold leastBy at hh
    split at hh
    · cases hh
      exact List.mem_cons_self
    next k' hk' =>
      split at hh
      · cases hh
        exact List.mem_cons_self
      · cases hh
        exact List.mem_cons_of_mem _ (ih hk')

/-- The DATA candidate of a peer is to a LINKED peer: a resend of a marked slot, or a first send within held credit
(R100). -/
theorem State.dataCandidate_some {s : State} {p : Station} {c : Candidate} (hc : s.dataCandidate p = some c) :
    (s.peer p).state = .linked
      ∧ ((∃ h, c = .resend h p ∧ (s.txs.slot h).isMarkedFor p = true)
        ∨ ∃ h, c = .firstSend h p ∧ 1 ≤ (s.peer p).heldCredit ∧ (s.txs.slot h).isQueuedTo p = true) := by
  simp only [State.dataCandidate] at hc
  split at hc
  next hl =>
    simp only [Bool.and_eq_true, beq_iff_eq] at hl
    refine ⟨hl.2, ?_⟩
    split at hc
    next h hm =>
      cases hc
      exact .inl ⟨h, rfl, List.find?_some (p := fun h => (s.txs.slot h).isMarkedFor p) hm⟩
    next =>
      split at hc
      next hcredit =>
        obtain ⟨h, hh, rfl⟩ := Option.map_eq_some_iff.1 hc
        exact .inr ⟨h, rfl, hcredit, (List.mem_filter.1 (mem_of_leastBy hh)).2⟩
      next => cases hc
  next => cases hc

/-- The record of a chosen frame stands at its staging (R105, R106). -/
theorem State.stagedStands_of_choose {s : State} {c : Candidate} {u : BitVec 2} {f : FrameBody} {r : StagingRecord}
    (hc : s.choose = some c) (hb : s.buildFrame c = some (u, f, r)) : s.StagedStands r := by
  have hback := State.backs_of_choose hc
  cases c with
  | hello =>
    cases hb
    trivial
  | leavingHello =>
    cases hb
    trivial
  | control k p =>
    cases hb
    trivial
  | firstSend h p =>
    obtain ⟨hlinked, ⟨_, hne, -⟩ | ⟨_, heq, hcredit, hq⟩⟩ := State.dataCandidate_some hback
    · cases hne
    cases heq
    simp only [State.buildFrame] at hb
    split at hb
    next m hm =>
      cases hb
      exact ⟨by rw [hm]; rfl, fun _ => ⟨hq, hlinked, rfl, rfl, hcredit⟩⟩
    next => cases hb
  | resend h p =>
    obtain ⟨-, ⟨_, heq, hmarked⟩ | ⟨_, hne, -⟩⟩ := State.dataCandidate_some hback
    · cases heq
      simp only [State.buildFrame] at hb
      split at hb
      next m q b hm =>
        cases hb
        rw [hm] at hmarked
        simp only [Slot.isMarkedFor, Bool.and_eq_true, beq_iff_eq] at hmarked
        exact ⟨by rw [hm]; rfl, fun _ => ⟨by rw [hm]; simp [Slot.isSentAs, hmarked.1], rfl⟩⟩
      next => cases hb
    · cases hne
  | group h =>
    simp only [State.buildFrame] at hb
    split at hb
    next m hm =>
      split at hb
      next tag htag =>
        cases hb
        exact ⟨by rw [hm]; rfl, fun p => by rw [hm]; simp [Slot.isQueuedTo, htag]⟩
      next => cases hb
    next => cases hb

/-- A staging takes a record that stands, where none was (R105). -/
theorem State.SessionLaw.staged {s : State} (hs : s.SessionLaw) {r : StagingRecord} (hnone : s.txs.staged = none)
    (hr : s.StagedStands r) : State.SessionLaw (s.onTxs fun t => { t with staged := some r, presented := none }) := by
  obtain ⟨h1, h2, h3, h4, h5, -⟩ := hs
  refine ⟨h1, h2, h3, h4, fun ho k hk => ?_, fun r' hr' => ?_⟩
  · have := hnone.symm.trans (h5 ho k hk)
    cases this
  · cases hr'
    cases r <;> exact hr

/-! ### The slots of the host -/

theorem State.StagedStands.notFree {s : State} {r : StagingRecord} (h : s.StagedStands r) {k : Handle}
    (hk : r.handle = some k) : (s.txs.slot k).isFree = false := by
  cases r <;> cases hk
  case firstSend => exact h.1
  case resend => exact h.1
  case group => exact Slot.not_isFree_of_isQueued h.1

section
variable {s : State} (hs : s.SessionsHold)
include hs

/-- SUBMIT takes DATA for a peer that is SYNCING or LINKED only (R93). -/
theorem State.SessionsHold.live_of_submitTarget {q : SubmitParams} {p : Station}
    (ht : s.submitTarget q = .ok (.data p)) : (s.peer p).isLive = true := by
  unfold State.submitTarget at ht
  split at ht
  · cases ht
  split at ht
  · cases ht
  next hdest =>
    split at ht
    · cases ht
    next hstate =>
      cases ht
      have hself : (s.peer p).state ≠ .self := fun hself => by
        have haddr := (hs.peers.1 p).1 hself
        unfold submitDestination at hdest
        split at hdest
        · cases hdest
        next hne =>
          refine hne ?_
          have hp := p.isLt
          unfold stationOf at hdest
          split at hdest
          · cases hdest
            rw [← haddr, stationAddress, BitVec.toNat_ofNat]
            exact (Nat.mod_eq_of_lt (by omega)).symm
          · cases hdest
      rw [PeerEntry.isLive_iff]
      cases hx : (s.peer p).state <;> simp_all

/-- A message for a peer that is SYNCING or LINKED, or for a group, is placed in a FREE slot (R93, R94). -/
theorem State.SessionsHold.submit {q : SubmitParams} {h : Handle} {target : Target}
    (hc : s.submitCheck q = .ok (h, target)) :
    (s.onTxs (Txs.place h (q.message target))).SessionLaw ∧ (s.onTxs (Txs.place h (q.message target))).WindowLaw := by
  obtain ⟨htakes, htarget, hfree⟩ := State.submitCheck_ok hc
  obtain ⟨h1, h2, h3, h4, h5, h6⟩ := hs.session
  have hslot : ∀ k, (s.txs.place h (q.message target)).slot k
      = if h = k then .queued (q.message target) else s.txs.slot k := fun k => s.txs.slot_setSlot h k _
  have hsent : ∀ k p n, ((s.txs.place h (q.message target)).slot k).isSentAs p n = (s.txs.slot k).isSentAs p n :=
    fun k p n => by
      rw [hslot]
      split
      next hk =>
        subst hk
        cases hx : s.txs.slot h <;> simp_all [Slot.isFree, Slot.isSentAs]
      next => rfl
  refine ⟨⟨fun k p hk => ?_, fun k hk => ?_, fun k p hk => ?_, fun he => ?_, fun hl => ?_, fun r hr => ?_⟩,
    hs.window.congr (fun _ => rfl) hsent⟩
  · obtain ⟨n, hn⟩ := Slot.isSentTo_iff.1 hk
    exact h1 k p (Slot.isSentTo_iff.2 ⟨n, (hsent k p n).symm.trans hn⟩)
  · simp only [State.onTxs_txs, hslot] at hk ⊢
    split
    · exact .inl rfl
    next hne =>
      rw [if_neg hne] at hk
      exact h2 k hk
  · simp only [State.onTxs_txs, hslot] at hk
    split at hk
    · have htarget' : target = .data p := by simpa [Slot.isQueuedTo, SubmitParams.message] using hk
      exact hs.live_of_submitTarget (htarget' ▸ htarget)
    · exact h3 k p hk
  · have he : s.control.opState.enabled = false := he
    cases ho : s.control.opState <;> simp_all [OpState.takesMessages, OpState.enabled]
  · have hl : s.control.opState = .leaving := hl
    rw [hl] at htakes
    cases htakes
  · have hr : s.txs.staged = some r := hr
    refine (h6 r hr).transfer fun k hk => .inl ⟨Slot.alike_of_eq ?_, fun p _ => PeerEntry.sustains_of_window rfl⟩
    refine (hslot k).trans (if_neg fun hhk => ?_)
    have hbusy := (h6 r hr).notFree hk
    rw [← hhk, hfree] at hbusy
    cases hbusy

/-- A cancelled slot was QUEUED and not staged (R95). -/
theorem State.SessionsHold.cancel {h : Handle} (hc : s.txs.cancelStatus h = .ok) :
    (s.onTxs (Txs.complete .cancelled h)).SessionLaw ∧ (s.onTxs (Txs.complete .cancelled h)).WindowLaw := by
  obtain ⟨hqueued, hstaged⟩ : (s.txs.slot h).isQueued = true ∧ s.txs.stagedHandle ≠ some h := by
    unfold Txs.cancelStatus at hc
    split at hc
    · cases hc
    · cases hc
    · cases hc
    next hm =>
      split at hc
      · cases hc
      next hne => exact ⟨by rw [hm]; rfl, hne⟩
  have hslot : ∀ k, (s.txs.complete .cancelled h).slot k = s.txs.slot k
      ∨ (s.txs.slot k).isQueued = true ∧ ((s.txs.complete .cancelled h).slot k).isComplete = true := fun k => by
    rw [Txs.slot_complete]
    split
    next hk =>
      subst hk
      refine .inr ⟨hqueued, ?_⟩
      rw [Slot.isComplete_completed, Slot.isOpen_of_isQueued hqueued, Bool.true_or]
    next => exact .inl rfl
  refine ⟨hs.session.close rfl (fun _ => rfl) hslot (.inl ⟨Txs.complete_staged _ _ _, fun k hk => ?_⟩),
    hs.window.close (fun _ => rfl) hslot⟩
  refine (s.txs.slot_complete h k .cancelled).trans (if_neg fun hhk => hstaged ?_)
  rw [Txs.stagedHandle, hk, hhk]
  rfl

/-- A released slot was COMPLETE, and a record that named it names no slot (R97). -/
theorem State.SessionsHold.releaseHead :
    (s.onTxs Txs.releaseHead).SessionLaw ∧ (s.onTxs Txs.releaseHead).WindowLaw := by
  cases hcompletions : s.txs.completions with
  | nil =>
    have hsame : s.txs.releaseHead = s.txs := by
      unfold Txs.releaseHead
      rw [hcompletions]
    simp only [State.onTxs, hsame]
    exact ⟨hs.session, hs.window⟩
  | cons h rest =>
    have hrelease : s.txs.releaseHead
        = { s.txs.setSlot h .free with completions := rest, staged := s.txs.staged.map (StagingRecord.forget h) } := by
      unfold Txs.releaseHead
      rw [hcompletions]
    have hcomplete : (s.txs.slot h).isComplete = true :=
      hs.slots.isComplete (by rw [hcompletions]; exact List.mem_cons_self)
    have hslot : ∀ k, s.txs.releaseHead.slot k = if h = k then .free else s.txs.slot k := fun k => by
      rw [hrelease]
      exact s.txs.slot_setSlot h k .free
    have hstaged : s.txs.releaseHead.staged = s.txs.staged.map (StagingRecord.forget h) := by rw [hrelease]
    have hopen : ∀ k, (s.txs.releaseHead.slot k).isOpen = true → h ≠ k ∧ s.txs.releaseHead.slot k = s.txs.slot k :=
      fun k hk => by
        rw [hslot] at hk ⊢
        split at hk
        · cases hk
        next hne => exact ⟨hne, if_neg hne⟩
    obtain ⟨h1, h2, h3, h4, h5, h6⟩ := hs.session
    refine ⟨⟨fun k p hk => ?_, fun k hk => ?_, fun k p hk => ?_, fun he k => ?_, fun hl k hk => ?_, fun r hr => ?_⟩,
      hs.window.congr (fun _ => rfl) fun k p n => ?_⟩
    · exact h1 k p ((hopen k (Slot.isOpen_of_isSentTo hk)).2 ▸ hk)
    · have hsame := (hopen k hk).2
      simp only [State.onTxs_txs] at hk ⊢
      rw [hsame] at hk ⊢
      exact h2 k hk
    · exact h3 k p ((hopen k (Slot.isOpen_of_isQueuedTo hk)).2 ▸ hk)
    · by_contra hk
      have hk : (s.txs.releaseHead.slot k).isOpen = true := by simpa using hk
      have hclosed := h4 he k
      rw [← (hopen k hk).2, hk] at hclosed
      cases hclosed
    · obtain ⟨hne, hsame⟩ := hopen k hk
      refine hstaged.trans ?_
      rw [h5 hl k (hsame ▸ hk)]
      simp [StagingRecord.forget, Ne.symm hne]
    · obtain ⟨r', hr', rfl⟩ := Option.map_eq_some_iff.1 (hstaged.symm.trans hr)
      by_cases hh : r'.handle = some h
      · cases r' <;> cases hh <;> simp [StagingRecord.forget, State.StagedStands]
      · have hsame : r'.forget h = r' := by
          cases r' <;> simp_all [StagingRecord.forget, StagingRecord.handle]
        rw [hsame]
        refine (h6 r' hr').transfer fun k hk => .inl ⟨Slot.alike_of_eq ((hslot k).trans (if_neg fun hhk => ?_)),
          fun p _ => PeerEntry.sustains_of_window rfl⟩
        exact hh (hhk ▸ hk)
    · refine (congrArg (Slot.isSentAs p n) (hslot k)).trans ?_
      split
      next hk =>
        subst hk
        exact (Slot.isSentAs_of_not_isOpen (Slot.not_isOpen_of_isComplete hcomplete) p n).symm
      next => rfl

end

end Sys2Proof.Machine
end

section
/-! PROOFS. Every change keeps the laws of the sessions. -/

namespace Sys2Proof.Machine

/-! ### Changes that the laws of the sessions do not see -/

section
variable (s : State)

theorem State.sessionView_tick : s.tick.sessionView = s.sessionView := by
  have hw : ∀ p, (s.tick.peer p).window = (s.peer p).window := fun p => by
    rw [State.peer_tick]
    rfl
  simp only [State.sessionView, hw]
  rfl

theorem State.sessionView_groupReceived (p : Station) (tag : Byte) (payload : List Byte) :
    (s.groupReceived p tag payload).sessionView = s.sessionView := by
  unfold State.groupReceived
  split
  · rfl
  · split <;> rfl

theorem PeerEntry.setAckPending_window (d : Nat) (e : PeerEntry) : (e.setAckPending d).window = e.window := by
  rcases e.setAckPending_cases d with ⟨-, h⟩ | ⟨-, -, h⟩ | ⟨-, -, -, h⟩ | ⟨-, -, -, h⟩ <;> rw [h] <;> rfl

theorem PeerEntry.granted_window (d : Nat) (e : PeerEntry) : (e.granted d).window = e.window := by
  rw [PeerEntry.granted_eq]
  rfl

theorem State.sessionView_grantTo (p : Station) : (s.grantTo p).sessionView = s.sessionView := by
  have hrotation : ∀ v : State, (v.onMst fun m => { m with rotation := p }).sessionView = v.sessionView := fun _ => rfl
  rw [State.grantTo, hrotation]
  exact State.sessionView_onPeer (PeerEntry.granted_window _ _)

theorem State.sessionView_takeSeq (p : Station) (q : Seq) (payload : List Byte) :
    (s.takeSeq p q payload).sessionView = s.sessionView := by
  have hcount : ∀ c, (s.count c).sessionView = s.sessionView := fun _ => rfl
  have hstore : ∀ r, (s.onMst (Mst.store r)).sessionView = s.sessionView := fun _ => rfl
  unfold State.takeSeq
  split
  · rw [State.sessionView_onPeer, hstore]
    exact PeerEntry.setAckPending_window _ _
  · exact hcount _
  · rw [State.sessionView_onPeer (PeerEntry.setAckPending_window _ _), hcount]
  · rw [State.sessionView_onPeer (PeerEntry.setAckPending_window _ _), hcount]

theorem State.sessionView_markSent (p : Station) : (s.onTxs (Txs.markSent p)).sessionView = s.sessionView := by
  have hslot : ∀ k, ((s.txs.markSent p).slot k).withMark false = (s.txs.slot k).withMark false := fun k => by
    rw [Txs.slot_markSent]
    split
    · exact Slot.withMark_withMark _ _ _
    · rfl
  have hstaged : (s.txs.markSent p).staged = s.txs.staged := by rw [Txs.markSent_frame]
  simp only [State.sessionView, State.onTxs_txs, hslot, hstaged]
  rfl

end

/-! ### Changes of the operating state -/

section
variable {s : State}

theorem State.peer_onHello (s : State) (n : Nat) (due : Bool) (p : Station) :
    (s.onPen fun m => { m with helloTimer := n, helloDue := due }).peer p = s.peer p := rfl

theorem State.peer_enterDetached (s : State) (p : Station) : s.enterDetached.peer p = s.withdrawAll.peer p := by
  simp only [State.enterDetached, State.withdrawAll_onControl, State.peer_raise, State.peer_onHmn, State.peer_onHello,
    State.peer_onControl]

theorem State.peer_beginLeaving (s : State) (p : Station) :
    s.beginLeaving.peer p = s.unstagedCancelled.withdrawAll.peer p := by
  simp only [State.beginLeaving_eq, State.peer_onHmn, State.peer_onHello, State.peer_onControl]

theorem State.sessionView_enterDetached (s : State) :
    s.enterDetached.sessionView = { s.withdrawAll.sessionView with opState := .detached } := by
  have hop : s.enterDetached.control.opState = .detached := by simp [State.enterDetached]
  simp only [State.sessionView, State.peer_enterDetached, hop, State.enterDetached_txs]

theorem State.sessionView_beginLeaving (s : State) :
    s.beginLeaving.sessionView = { s.unstagedCancelled.withdrawAll.sessionView with opState := .leaving } := by
  have hop : s.beginLeaving.control.opState = .leaving := by simp [State.beginLeaving]
  simp only [State.sessionView, State.peer_beginLeaving, hop, State.beginLeaving_txs]

/-- With no slot open and every window empty, nothing is asked of slots or peers. -/
theorem State.windowLaw_of_closed (ho : ∀ k, (s.txs.slot k).isOpen = false)
    (hp : ∀ p, (s.peer p).outstanding = 0 ∧ ((s.peer p).heldLimit - (s.peer p).oldestUnacked).toNat ≤ 15) :
    s.WindowLaw := by
  refine fun p => ⟨by rw [(hp p).1]; exact Nat.zero_le _, (hp p).2, fun q => ?_⟩
  rw [(hp p).1, if_neg (Nat.not_lt_zero _), List.length_eq_zero_iff]
  refine List.filter_eq_nil_iff.2 fun k _ hk => ?_
  have hopen := Slot.isOpen_of_isSentAs hk
  rw [ho] at hopen
  cases hopen

theorem State.peer_initial (h : s.pen.peers = initialPeers s.control.ownAddr) (p : Station) :
    s.peer p = .absentEntry ∨ s.peer p = .selfEntry := by
  simp only [State.peer, h, initialPeers]
  split
  · simp only [Fin.getElem_fin, Vector.getElem_set, Vector.getElem_replicate]
    split
    · exact .inr rfl
    · exact .inl rfl
  · simp

/-- After a reset every slot is FREE and every window empty (R26, R113). -/
theorem State.sessions_of_cleared (htxs : s.txs = .cleared) (hpeers : s.pen.peers = initialPeers s.control.ownAddr) :
    s.SessionLaw ∧ s.WindowLaw := by
  have hclosed : ∀ k, (s.txs.slot k).isOpen = false := fun k => by
    rw [htxs]
    simp [Txs.slot, Txs.cleared, Slot.isOpen]
  refine ⟨State.sessionLaw_of_closed hclosed (by rw [htxs]; rfl), State.windowLaw_of_closed hclosed fun p => ?_⟩
  rcases State.peer_initial hpeers p with h | h <;> rw [h] <;> decide

variable (hs : s.SessionsHold)
include hs

theorem State.SessionsHold.enterDetached : s.enterDetached.SessionLaw ∧ s.enterDetached.WindowLaw := by
  have hview := s.sessionView_enterDetached
  have hw := hs.withdrawAll.holds
  exact ⟨hw.session.opState hview nofun nofun, hw.window.opState hview⟩

theorem State.SessionsHold.beginLeaving : s.beginLeaving.SessionLaw ∧ s.beginLeaving.WindowLaw := by
  have hview := s.sessionView_beginLeaving
  obtain ⟨hcancelled, hqueued⟩ := hs.unstagedCancelled
  have hw := hcancelled.withdrawAll
  refine ⟨hw.holds.session.opState hview nofun fun _ k hk => ?_, hw.holds.window.opState hview⟩
  obtain ⟨hq, hno⟩ := hcancelled.queued_of_withdrawn hk
  have hhandle : s.txs.stagedHandle = some k := hqueued k (hw.opens k hk ▸ hq)
  have hstaged : s.unstagedCancelled.withdrawAll.txs.staged = s.txs.staged :=
    hw.staged.trans (Txs.completeAll_staged _ _ _)
  rw [Txs.stagedHandle, Option.bind_eq_some_iff] at hhandle
  obtain ⟨r, hr, hr'⟩ := hhandle
  have hstands := hw.holds.session.stands (hstaged.trans hr)
  rw [hstaged, hr]
  cases r <;> cases hr'
  case firstSend p _ _ =>
    have hto := (hstands.2 hk).1
    rw [hno] at hto
    cases hto
  case resend p q _ =>
    have hsent := (hstands.2 hk).1
    rw [Slot.isSentAs_of_isQueued hq] at hsent
    cases hsent
  case group => rfl

/-- LEAVING ends with no slot open: a staged GROUP has been cancelled, or it was not what was staged (R152, R153). -/
theorem State.SessionsHold.endLeaving {timedOut : Bool} (ho : s.control.opState = .leaving)
    (ht : timedOut = false → ∃ e, s.txs.staged = some (.leavingHello e)) :
    (s.endLeaving timedOut).SessionLaw ∧ (s.endLeaving timedOut).WindowLaw := by
  have hready : ∀ v : State, v.SessionLaw ∧ v.WindowLaw → v.control.opState = .leaving → v.txs.staged = none →
      (s.endLeaving timedOut).sessionView = { v.sessionView with opState := .ready } →
        (s.endLeaving timedOut).SessionLaw ∧ (s.endLeaving timedOut).WindowLaw := fun v hv hvo hvs hview => by
    refine ⟨hv.1.opState hview (fun _ k => ?_) nofun, hv.2.opState hview⟩
    by_contra hk
    have hstaged := hv.1.leaving hvo (by simpa using hk)
    rw [hvs] at hstaged
    cases hstaged
  cases timedOut with
  | true =>
    have hfailure : s.takeFailure = (s.onTxs Txs.cancelStagedGroup).clearStaged := if_pos ho
    exact hready s.takeFailure hs.takeFailure (by rw [hfailure]; exact ho) s.takeFailure_staged (by rw [hfailure]; rfl)
  | false =>
    obtain ⟨e, he⟩ := ht rfl
    exact hready s.clearStaged (hs.cleared_of_staged he nofun rfl) ho rfl rfl

end

/-! ### Every change -/

section
variable {s t : State} (hs : s.SessionsHold)
include hs

/-- The laws after a change that they do not see. -/
theorem State.SessionsHold.unseen (h : t.sessionView = s.sessionView) : t.SessionLaw ∧ t.WindowLaw :=
  ⟨State.sessionLaw_of_view h hs.session, State.windowLaw_of_view h hs.window⟩

/-- Every change keeps the laws of the sessions. -/
theorem State.SessionsHold.sessions_change (h : Change s t) : t.SessionLaw ∧ t.WindowLaw := by
  have hclosed : s.enabled = false → ∀ k, (s.txs.slot k).isOpen = false := hs.session.closed
  cases h
  case tick => exact hs.unseen s.sessionView_tick
  case stage hst hc hb =>
    exact ⟨hs.session.staged hst (State.stagedStands_of_choose hc hb), hs.window⟩
  case helloSent e h => exact hs.cleared_of_staged h nofun (s.sessionView_helloOk e)
  case leavingHelloFallen h ho => exact hs.cleared_of_staged h nofun rfl
  case controlSent k p c h => exact hs.cleared_of_staged h nofun (s.sessionView_controlOk k p c)
  case firstSent hst => exact hs.firstSent hst
  case resent h p q c hst => exact hs.cleared_of_staged hst nofun (s.sessionView_resendOk h p q c)
  case groupSent hst => exact hs.groupSent hst
  case failed => exact hs.takeFailure
  case submit hc => exact hs.submit hc
  case cancel hc => exact hs.cancel hc
  case releaseSlot => exact hs.releaseHead
  case group p tag payload => exact hs.unseen (s.sessionView_groupReceived p tag payload)
  case grant p _ => exact hs.unseen (s.sessionView_grantTo p)
  case refresh => exact hs.unseen (State.sessionView_onPeer rfl)
  case resynchronise => exact hs.resynchronised
  case openLink hl => exact hs.opened hl
  case leave p _ => exact hs.sessionEnd p _ _
  case lose p _ => exact hs.sessionEnd p _ _
  case forget p hp => exact hs.forget p hp
  case ackLimit ht =>
    exact ⟨hs.ackLimit_session (State.takesAckLimit ht), hs.ackLimit_window (State.takesAckLimit ht)⟩
  case accept hp ht => exact hs.accept (State.takesAckLimit ht) hp
  case seq p q payload _ => exact hs.unseen (s.sessionView_takeSeq p q payload)
  case joinRetry => exact hs.unseen (State.sessionView_onPeer rfl)
  case ackRetry p _ _ _ =>
    exact hs.unseen ((State.sessionView_onPeer rfl).trans (s.sessionView_markSent p))
  case ackDelay => exact hs.unseen (State.sessionView_onPeer rfl)
  case rejoin => exact ⟨hs.session.opState (o := .running) rfl nofun nofun, hs.window⟩
  case detach => exact hs.enterDetached
  case configure ho _ =>
    exact ⟨hs.session.opState (o := .ready) rfl (fun _ => hclosed (by rw [State.enabled, ho]; rfl)) nofun, hs.window⟩
  case start => exact ⟨hs.session.opState (o := .running) rfl nofun nofun, hs.window⟩
  case beginLeaving => exact hs.beginLeaving
  case endLeaving ho ht => exact hs.endLeaving ho ht
  case softReset => exact State.sessions_of_cleared rfl rfl
  all_goals exact hs.unseen rfl

theorem State.SessionsHold.change (h : Change s t) : t.SessionsHold :=
  have hsessions := hs.sessions_change h
  ⟨hs.slots.change h, hs.peers.change h, hsessions.1, hsessions.2⟩

theorem State.SessionsHold.changes (h : Changes s t) : t.SessionsHold := by
  induction h with
  | refl => exact hs
  | tail _ hc ih => exact ih.change hc

end

theorem stepInvariant_sessionsHold : StepInvariant State.PresentedLaw State.SessionsHold where
  queues _ _ hs := ⟨hs.slots, hs.peers, hs.session, hs.window⟩
  reset own phase low pending inputs :=
    have hsessions := State.sessions_of_cleared rfl rfl
    ⟨stepInvariant_slotLaw.reset own phase low pending inputs, stepInvariant_peerLaw.reset own phase low pending inputs,
      hsessions.1, hsessions.2⟩
  stage hp hs hc := hs.changes (State.changes_stage hp hc)
  change h hs := hs.change h

/-- Settles O58: every change that an event is made of keeps the laws of slots, peers, sessions and send windows together. -/
theorem sendWindowsMatchTheirSlots : Obligations.SendWindowsMatchTheirSlots :=
  fun _ _ _ hpresented hslots hpeers hsession hwindow ht =>
    have hs := stepInvariant_sessionsHold.step ht (fun _ _ => hpresented) ⟨hslots, hpeers, hsession, hwindow⟩
    ⟨hs.session, hs.window⟩

end Sys2Proof.Machine
end

section
/-! PROOFS. The law of the peer entries. -/

namespace Sys2Proof.Machine

/-! ### What an association state asks of its entry -/

section
variable {e : PeerEntry}

theorem PeerEntry.stateLaw_absent (h : e.state = .absent) : e.StateLaw ↔ e = e.atRest ∧ e.peerEpoch = 0 := by
  simp only [PeerEntry.StateLaw, h]

theorem PeerEntry.stateLaw_lost (h : e.state = .lost) : e.StateLaw ↔ e = e.atRest ∧ e.peerEpoch ≠ 0 := by
  simp only [PeerEntry.StateLaw, h]

theorem PeerEntry.stateLaw_syncing (h : e.state = .syncing) :
    e.StateLaw ↔ e.peerEpoch ≠ 0 ∧ e.nextTxSeq = 0 ∧ e.oldestUnacked = 0 ∧ e.heldLimit = 0 ∧ e.expected = 0
      ∧ e.acceptPending = false ∧ e.ackPending = false ∧ e.joinTimer ≠ 0 ∧ e.silenceTimer ≠ 0 ∧ e.ackTimer = 0 := by
  simp only [PeerEntry.StateLaw, h]

theorem PeerEntry.stateLaw_linked (h : e.state = .linked) :
    e.StateLaw ↔ e.peerEpoch ≠ 0 ∧ e.openPending = false ∧ e.joinTimer = 0 ∧ e.silenceTimer ≠ 0
      ∧ (e.ackTimer ≠ 0 ↔ e.outstanding ≠ 0) := by
  simp only [PeerEntry.StateLaw, h]

/-- An entry that is neither SYNCING nor LINKED has every session field, flag and timer at rest. -/
theorem PeerEntry.StateLaw.atRest (h : e.StateLaw) (hl : e.isLive = false) : e = e.atRest := by
  cases hx : e.state
  case absent => exact ((PeerEntry.stateLaw_absent hx).1 h).1
  case lost => exact ((PeerEntry.stateLaw_lost hx).1 h).1
  case self =>
    simp only [PeerEntry.StateLaw, hx] at h
    rw [h]
    rfl
  case syncing => simp [PeerEntry.isLive, hx] at hl
  case linked => simp [PeerEntry.isLive, hx] at hl

theorem PeerEntry.StateLaw.peerEpoch_ne_zero (h : e.StateLaw) (hl : e.isLive = true) : e.peerEpoch ≠ 0 := by
  rcases PeerEntry.isLive_iff.1 hl with hx | hx
  · exact ((PeerEntry.stateLaw_syncing hx).1 h).1
  · exact ((PeerEntry.stateLaw_linked hx).1 h).1

end

/-- A change of an entry that keeps what the law asks of a live one: no timer that has to run stops, none that has to stand
starts, and no flag is set. -/
structure PeerEntry.Upholds (e e' : PeerEntry) : Prop where
  window : e'.window = e.window
  peerEpoch : e'.peerEpoch = e.peerEpoch
  expected : e'.expected = e.expected
  openPending : e.openPending = false → e'.openPending = false
  acceptPending : e.acceptPending = false → e'.acceptPending = false
  ackPending : e.ackPending = false → e'.ackPending = false
  joinTimer : e'.joinTimer = 0 ↔ e.joinTimer = 0
  silenceTimer : e.silenceTimer ≠ 0 → e'.silenceTimer ≠ 0
  ackTimer : e'.ackTimer = 0 ↔ e.ackTimer = 0
  retryCount : e'.retryCount = e.retryCount

theorem PeerEntry.StateLaw.upheld {e e' : PeerEntry} (h : e.StateLaw) (hl : e.isLive = true) (hu : e.Upholds e') :
    e'.StateLaw := by
  have hstate : e'.state = e.state := congrArg SendWindow.state hu.window
  have hnext : e'.nextTxSeq = e.nextTxSeq := congrArg SendWindow.nextTxSeq hu.window
  have hold : e'.oldestUnacked = e.oldestUnacked := congrArg SendWindow.oldestUnacked hu.window
  have hheld : e'.heldLimit = e.heldLimit := congrArg SendWindow.heldLimit hu.window
  rcases PeerEntry.isLive_iff.1 hl with hx | hx
  · obtain ⟨h1, h2, h3, h4, h5, h6, h7, h8, h9, h10⟩ := (PeerEntry.stateLaw_syncing hx).1 h
    exact (PeerEntry.stateLaw_syncing (hstate.trans hx)).2
      ⟨hu.peerEpoch ▸ h1, hnext.trans h2, hold.trans h3, hheld.trans h4, hu.expected.trans h5, hu.acceptPending h6,
        hu.ackPending h7, mt hu.joinTimer.1 h8, hu.silenceTimer h9, hu.ackTimer.2 h10⟩
  · obtain ⟨h1, h2, h3, h4, h5⟩ := (PeerEntry.stateLaw_linked hx).1 h
    refine (PeerEntry.stateLaw_linked (hstate.trans hx)).2
      ⟨hu.peerEpoch ▸ h1, hu.openPending h2, hu.joinTimer.2 h3, hu.silenceTimer h4, ?_⟩
    rw [PeerEntry.outstanding, hnext, hold]
    exact (not_congr hu.ackTimer).trans h5

/-! ### Operations on one entry -/

/-- What the law asks of one entry, its retry count within max retries (R29, R66). -/
def PeerEntry.Fits (maxRetries : Nat) (e : PeerEntry) : Prop := e.StateLaw ∧ e.retryCount ≤ maxRetries

theorem State.entryLaw_iff {s : State} : s.EntryLaw ↔ ∀ p, (s.peer p).Fits s.cfg.maxRetries := Iff.rfl

section
variable {n : Nat} {e : PeerEntry} (h : e.Fits n)
include h

theorem PeerEntry.Fits.upheld {e' : PeerEntry} (hl : e.isLive = true) (hu : e.Upholds e') : e'.Fits n :=
  ⟨h.1.upheld hl hu, hu.retryCount ▸ h.2⟩

/-- What upholds a live entry and leaves one at rest alone keeps the law. -/
theorem PeerEntry.Fits.upheld_of_rest {e' : PeerEntry} (hu : e.Upholds e') (hrest : e = e.atRest → e' = e) :
    e'.Fits n := by
  by_cases hl : e.isLive = true
  · exact h.upheld hl hu
  · rwa [hrest (h.1.atRest (by simpa using hl))]

theorem PeerEntry.Fits.carry (c : Carried) : (e.carry c).Fits n := by
  refine h.upheld_of_rest ?_ fun hrest => ?_
  · simp only [PeerEntry.carry]
    split
    · refine ⟨rfl, rfl, rfl, id, id, fun hack => ?_, Iff.rfl, id, Iff.rfl, rfl⟩
      simp [hack]
    · exact ⟨rfl, rfl, rfl, id, id, fun _ => rfl, Iff.rfl, id, Iff.rfl, rfl⟩
  · rw [hrest]
    rfl

theorem PeerEntry.Fits.controlDone (k : ControlKind) (c : Carried) : (e.controlDone k c).Fits n := by
  refine h.upheld_of_rest ?_ fun hrest => ?_
  · unfold PeerEntry.controlDone
    split
    · cases k
      case openFrame => exact ⟨rfl, rfl, rfl, fun _ => rfl, id, id, Iff.rfl, id, Iff.rfl, rfl⟩
      case acceptFrame => exact ⟨rfl, rfl, rfl, id, fun _ => rfl, id, Iff.rfl, id, Iff.rfl, rfl⟩
      case creditFrame => exact ⟨rfl, rfl, rfl, id, id, id, Iff.rfl, id, Iff.rfl, rfl⟩
    · exact ⟨rfl, rfl, rfl, id, id, id, Iff.rfl, id, Iff.rfl, rfl⟩
  · rw [hrest]
    unfold PeerEntry.controlDone
    split
    · cases k <;> rfl
    · rfl

theorem PeerEntry.Fits.tick (held : Bool) : (e.tick held).Fits n := by
  refine h.upheld_of_rest ?_ fun hrest => ?_
  · refine ⟨rfl, rfl, rfl, id, id, id, ?_, mt tickTimer_eq_zero.1, ?_, rfl⟩
    · cases held
      · exact tickTimer_eq_zero
      · exact Iff.rfl
    · cases held
      · exact tickTimer_eq_zero
      · exact Iff.rfl
  · rw [hrest]
    cases held <;> rfl

theorem PeerEntry.Fits.granted (d : Nat) (hl : e.isLive = true) : (e.granted d).Fits n := by
  refine h.upheld hl ?_
  rcases PeerEntry.setGrantPending_cases d { e with grantLimit := e.grantLimit + 1 } with
    ⟨-, heq⟩ | ⟨-, -, heq⟩ | ⟨-, -, -, heq⟩ | ⟨-, -, -, heq⟩ <;> rw [PeerEntry.granted, heq] <;>
    exact ⟨rfl, rfl, rfl, id, id, id, Iff.rfl, id, Iff.rfl, rfl⟩

theorem PeerEntry.Fits.refreshed {m : Nat} (hl : e.isLive = true) (hm : m ≠ 0) :
    ({ e with silenceTimer := m } : PeerEntry).Fits n :=
  h.upheld hl ⟨rfl, rfl, rfl, id, id, id, Iff.rfl, fun _ => hm, Iff.rfl, rfl⟩

theorem PeerEntry.Fits.ackDelayed (hl : e.isLive = true) :
    ({ e with creditDue := true, ackDelayTimer := 0 } : PeerEntry).Fits n :=
  h.upheld hl ⟨rfl, rfl, rfl, id, id, id, Iff.rfl, id, Iff.rfl, rfl⟩

theorem PeerEntry.Fits.setAckPending (d : Nat) (hx : e.state = .linked) : (e.setAckPending d).Fits n := by
  have hlaw := (PeerEntry.stateLaw_linked hx).1 h.1
  rw [PeerEntry.Fits, PeerEntry.stateLaw_linked ((PeerEntry.setAckPending_state d e).trans hx)]
  rcases e.setAckPending_cases d with ⟨-, heq⟩ | ⟨-, -, heq⟩ | ⟨-, -, -, heq⟩ | ⟨-, -, -, heq⟩ <;>
    rw [heq] <;> exact ⟨hlaw, h.2⟩

theorem PeerEntry.Fits.stored (hx : e.state = .linked) : ({ e with expected := e.expected + 1 } : PeerEntry).Fits n :=
  ⟨(PeerEntry.stateLaw_linked (by exact hx)).2 ((PeerEntry.stateLaw_linked hx).1 h.1), h.2⟩

theorem PeerEntry.Fits.joinRetried {m : Nat} (hx : e.state = .syncing) (hn : e.retryCount < n) (hm : m ≠ 0) :
    ({ e with retryCount := e.retryCount + 1, openPending := true, joinTimer := m } : PeerEntry).Fits n := by
  obtain ⟨h1, h2, h3, h4, h5, h6, h7, -, h9, h10⟩ := (PeerEntry.stateLaw_syncing hx).1 h.1
  exact ⟨(PeerEntry.stateLaw_syncing (by exact hx)).2 ⟨h1, h2, h3, h4, h5, h6, h7, hm, h9, h10⟩, hn⟩

theorem PeerEntry.Fits.ackRetried {m : Nat} (hx : e.state = .linked) (ha : e.ackTimer ≠ 0) (hn : e.retryCount < n)
    (hm : m ≠ 0) : ({ e with retryCount := e.retryCount + 1, ackTimer := m } : PeerEntry).Fits n := by
  obtain ⟨h1, h2, h3, h4, h5⟩ := (PeerEntry.stateLaw_linked hx).1 h.1
  exact ⟨(PeerEntry.stateLaw_linked (by exact hx)).2 ⟨h1, h2, h3, h4, iff_of_true hm (h5.1 ha)⟩, hn⟩

/-- The first send of a seq, or one more, finds the ack timer running after it (R62). -/
theorem PeerEntry.Fits.firstSent {m : Nat} (hx : e.state = .linked) (hm : m ≠ 0) (hout : e.outstanding ≤ 15) :
    ({ e with nextTxSeq := e.nextTxSeq + 1, ackTimer := if e.ackTimer = 0 then m else e.ackTimer } : PeerEntry).Fits n := by
  obtain ⟨h1, h2, h3, h4, -⟩ := (PeerEntry.stateLaw_linked hx).1 h.1
  refine ⟨(PeerEntry.stateLaw_linked (by exact hx)).2 ⟨h1, h2, h3, h4, iff_of_true ?_ ?_⟩, h.2⟩
  · dsimp only
    split
    next => exact hm
    next hne => exact hne
  · simp only [PeerEntry.outstanding] at *
    bv_omega

end

/-- An entry at rest in ABSENT, with whatever sessionCount (R29). -/
theorem PeerEntry.fits_absent (n : Nat) (c : BitVec 8) :
    ({ PeerEntry.absentEntry with sessionCount := c } : PeerEntry).Fits n :=
  ⟨⟨rfl, rfl⟩, Nat.zero_le n⟩

theorem PeerEntry.fits_lost (n : Nat) (c : BitVec 8) {epoch : Epoch} (he : epoch ≠ 0) :
    ({ PeerEntry.absentEntry with state := .lost, peerEpoch := epoch, sessionCount := c } : PeerEntry).Fits n :=
  ⟨⟨rfl, he⟩, Nat.zero_le n⟩

theorem PeerEntry.fits_self (n : Nat) : PeerEntry.selfEntry.Fits n := ⟨rfl, Nat.zero_le n⟩

/-- A LOST entry that is forgotten is ABSENT and at rest (R34, R133). -/
theorem PeerEntry.Fits.forgotten {n : Nat} {e : PeerEntry} (h : e.Fits n) (hx : e.state = .lost) :
    ({ e with state := .absent, peerEpoch := 0 } : PeerEntry).Fits n := by
  rw [((PeerEntry.stateLaw_lost hx).1 h.1).1]
  exact PeerEntry.fits_absent n e.sessionCount

theorem PeerEntry.Fits.withdrawn {n : Nat} {e : PeerEntry} (h : e.Fits n) : e.withdrawn.Fits n := by
  unfold PeerEntry.withdrawn
  split
  · exact PeerEntry.fits_absent n _
  · split
    next hx => exact h.forgotten hx
    next => exact h

/-- A restarted entry: what a restart sets, the rest as it was but for the grant flags and the ack delay (R30). -/
theorem PeerEntry.restarted_eq (d : Nat) (e : PeerEntry) :
    e.restarted d = { e with
      sessionCount := e.sessionCount + 1, grantLimit := e.grantLimit - e.expected, nextTxSeq := 0, oldestUnacked := 0
      heldLimit := 0, expected := 0, retryCount := 0, ackTimer := 0, ackPending := false
      ackDelayTimer := (e.restarted d).ackDelayTimer, grantPending := (e.restarted d).grantPending
      creditDue := (e.restarted d).creditDue } := by
  simp only [PeerEntry.restarted]
  split
  · rfl
  · rcases PeerEntry.setGrantPending_cases d { e with
      sessionCount := e.sessionCount + 1, grantLimit := e.grantLimit - e.expected, nextTxSeq := 0, oldestUnacked := 0
      heldLimit := 0, expected := 0, retryCount := 0, ackTimer := 0, ackDelayTimer := 0, ackPending := false
      grantPending := false, creditDue := false } with ⟨-, h⟩ | ⟨-, -, h⟩ | ⟨-, -, -, h⟩ | ⟨-, -, -, h⟩ <;>
      rw [h]

/-- The entry of a peer that is resynchronised from a restart or from rest (R32). -/
theorem PeerEntry.fits_resynchronised {n j m : Nat} {e : PeerEntry} {epoch : Epoch} (he : epoch ≠ 0) (hj : j ≠ 0)
    (hm : m ≠ 0) (hnext : e.nextTxSeq = 0) (hold : e.oldestUnacked = 0) (hheld : e.heldLimit = 0) (hexp : e.expected = 0)
    (hack : e.ackPending = false) (htimer : e.ackTimer = 0) (hretry : e.retryCount = 0) :
    ({ e with
      peerEpoch := epoch, state := .syncing, openPending := true, acceptPending := false, joinTimer := j
      silenceTimer := m } : PeerEntry).Fits n :=
  ⟨⟨he, hnext, hold, hheld, hexp, rfl, hack, hj, hm, htimer⟩, hretry ▸ Nat.zero_le n⟩

/-- The entry of a peer linked by its OPEN (R37). -/
theorem PeerEntry.fits_opened {n m d : Nat} {epoch : Epoch} (e : PeerEntry) (limit : Seq) (he : epoch ≠ 0) (hm : m ≠ 0) :
    ({ e.restarted d with
      peerEpoch := epoch, heldLimit := limit, state := .linked, openPending := false, acceptPending := true, joinTimer := 0
      silenceTimer := m } : PeerEntry).Fits n := by
  rw [PeerEntry.restarted_eq]
  refine ⟨⟨he, rfl, rfl, hm, ?_⟩, Nat.zero_le n⟩
  simp [PeerEntry.outstanding]

/-- The entry of a SYNCING peer linked by an ACCEPT (R39). -/
theorem PeerEntry.Fits.accepted {n : Nat} {e : PeerEntry} {l : Seq} (h : e.Fits n) (hx : e.state = .syncing) :
    (({ e with heldLimit := l } : PeerEntry).accepted).Fits n := by
  obtain ⟨h1, h2, h3, -, -, -, -, -, h9, h10⟩ := (PeerEntry.stateLaw_syncing hx).1 h.1
  refine ⟨⟨h1, rfl, rfl, h9, ?_⟩, Nat.zero_le n⟩
  refine iff_of_false (fun hne => hne h10) fun hne => hne ?_
  simp [PeerEntry.outstanding, PeerEntry.accepted, h2, h3]

end Sys2Proof.Machine
end

section
/-! PROOFS. Every change keeps the law of the peer entries. -/

namespace Sys2Proof.Machine

/-! ### Entries of the state -/

section
variable {s t : State} (hs : s.EntryLaw)
include hs

theorem State.EntryLaw.unseen (hcfg : t.cfg = s.cfg) (hpeer : ∀ p, t.peer p = s.peer p) : t.EntryLaw := by
  rw [State.entryLaw_iff, hcfg]
  intro p
  rw [hpeer]
  exact hs p

/-- One entry changes, and what it becomes fits. -/
theorem State.EntryLaw.one (p : Station) (hcfg : t.cfg = s.cfg) (hpeer : ∀ q, p ≠ q → t.peer q = s.peer q)
    (hp : (t.peer p).Fits s.cfg.maxRetries) : t.EntryLaw := by
  rw [State.entryLaw_iff, hcfg]
  intro q
  by_cases hq : p = q
  · exact hq ▸ hp
  · rw [hpeer q hq]
    exact hs q

theorem State.EntryLaw.onPeer {p : Station} {f : PeerEntry → PeerEntry}
    (hf : (f (s.peer p)).Fits s.cfg.maxRetries) : (s.onPeer p f).EntryLaw :=
  hs.one p rfl (fun _ hq => State.peer_onPeer_ne s hq f) ((s.peer_onPeer_self p f).symm ▸ hf)

end

/-! ### The timers in full -/

section
variable {s : State} (hs : s.ControlLaw) (hr : s.isRunning = true)
include hs hr

theorem State.ControlLaw.ackTimeout : s.cfg.ackTimeout ≠ 0 := by
  obtain ⟨-, -, -, -, hrange, -⟩ := hs.inRange fun h => by simp [State.isRunning, h] at hr
  omega

theorem State.ControlLaw.silenceLimit : silenceLimit s.cfg ≠ 0 := by
  obtain ⟨-, -, -, -, -, -, hhello, hsilence, -⟩ := hs.inRange fun h => by simp [State.isRunning, h] at hr
  exact Nat.mul_ne_zero (by omega) (by omega)

end

/-! ### The ack timer after an ack -/

section
variable {s : State} (hs : s.SessionsHold)
include hs

/-- A peer has a SENT slot exactly while something is outstanding to it (R48). -/
theorem State.SessionsHold.anySent_iff (p : Station) : s.txs.anySent p = true ↔ (s.peer p).outstanding ≠ 0 := by
  rw [Txs.anySent, List.any_eq_true]
  constructor
  · rintro ⟨k, -, hk⟩ hzero
    obtain ⟨q, hq⟩ := Slot.isSentTo_iff.1 hk
    have hcount := hs.window.count p q
    rw [hzero, if_neg (Nat.not_lt_zero _), List.length_eq_zero_iff] at hcount
    exact List.filter_eq_nil_iff.1 hcount k (List.mem_finRange k) hq
  · intro hne
    by_contra hno
    refine hne (hs.outstanding_eq_zero fun k => ?_)
    by_contra hk
    have hk : (s.txs.slot k).isSentTo p = true := by simpa using hk
    exact hno ⟨k, hs.slots.mem_order (Slot.isOpen_of_isSentTo hk), hk⟩

end

theorem PeerEntry.Fits.takeLimit {n : Nat} {e : PeerEntry} (h : e.Fits n) (hx : e.state = .linked) (a l : Seq) :
    (e.takeLimit a l).Fits n := by
  unfold PeerEntry.takeLimit
  split
  · exact ⟨(PeerEntry.stateLaw_linked (by exact hx)).2 ((PeerEntry.stateLaw_linked hx).1 h.1), h.2⟩
  · exact h

theorem PeerEntry.Fits.acked {n m : Nat} {e : PeerEntry} (h : e.Fits n) (hx : e.state = .linked) {a : Seq}
    (hm : m ≠ 0 ↔ (e.nextTxSeq - a).toNat ≠ 0) : (e.acked a m).Fits n := by
  unfold PeerEntry.acked
  split
  · exact h
  · obtain ⟨h1, h2, h3, h4, -⟩ := (PeerEntry.stateLaw_linked hx).1 h.1
    exact ⟨(PeerEntry.stateLaw_linked (by exact hx)).2 ⟨h1, h2, h3, h4, hm⟩, Nat.zero_le n⟩

/-! ### The laws of control section, sessions and entries together -/

theorem State.cfg_of_controlView {s t : State} {v : ControlView} (h : t.controlView = v)
    (hc : v.control.config = s.control.config) : t.cfg = s.cfg := by
  have ht : t.control = v.control := congrArg ControlView.control h
  rw [State.cfg, ht, hc, State.cfg]

/-- What the law of the entries rests on. -/
structure State.EntriesHold (s : State) : Prop where
  control : s.ControlLaw
  sessions : s.SessionsHold
  entries : s.EntryLaw

section
variable {s t : State} (hs : s.EntriesHold) {p : Station}
include hs

theorem State.EntriesHold.ackTimeout (hp : (s.peer p).isLive = true) : s.cfg.ackTimeout ≠ 0 :=
  hs.control.ackTimeout (hs.sessions.peers.running hp)

theorem State.EntriesHold.silenceLimit (hp : (s.peer p).isLive = true) : Machine.silenceLimit s.cfg ≠ 0 :=
  hs.control.silenceLimit (hs.sessions.peers.running hp)

theorem State.EntriesHold.ackLimit {a l : Seq} (hp : (s.peer p).state = .linked) (ht : s.takeAckLimit p a l = some t) :
    t.EntryLaw := by
  have h := State.takesAckLimit ht
  have hafter := hs.sessions.change (.ackLimit hp ht)
  refine hs.entries.one p (by rw [State.cfg, h.control]; rfl) h.others ?_
  have hstate : ∀ m, ((s.peer p).acked a m).state = .linked := fun m =>
    (congrArg SendWindow.state ((s.peer p).acked_window a m)).trans hp
  rw [h.entry]
  refine PeerEntry.Fits.takeLimit (PeerEntry.Fits.acked (hs.entries p) hp ?_) (hstate _) a l
  obtain ⟨-, -, hnext, hold, -⟩ := h.seqs
  have hout : (t.peer p).outstanding = ((s.peer p).nextTxSeq - a).toNat := by rw [PeerEntry.outstanding, hnext, hold]
  rw [← hout, ← hafter.anySent_iff p]
  split
  next hsent => exact iff_of_true (hs.ackTimeout (PeerEntry.isLive_iff.2 (.inr hp))) hsent
  next hsent => exact iff_of_false (fun hne => hne rfl) hsent

theorem State.EntriesHold.accept {a l : Seq} (hp : (s.peer p).state = .syncing) (ht : s.takeAckLimit p a l = some t) :
    (t.onPeer p PeerEntry.accepted).EntryLaw := by
  have h := State.takesAckLimit ht
  have hne : (s.peer p).state ≠ .linked := by rw [hp]; decide
  have hzero := hs.sessions.outstanding_eq_zero (hs.sessions.not_sent hne)
  have ha : a = (s.peer p).oldestUnacked := by
    have hvalid := h.valid
    bv_omega
  have hentry : ∃ l', t.peer p = { s.peer p with heldLimit := l' } := by
    rw [h.entry, PeerEntry.acked, if_pos ha, PeerEntry.takeLimit]
    split
    · exact ⟨l, rfl⟩
    · exact ⟨(s.peer p).heldLimit, rfl⟩
  obtain ⟨l', hentry⟩ := hentry
  refine hs.entries.one p (by rw [State.cfg_onPeer, State.cfg, h.control]; rfl)
    (fun q hq => (State.peer_onPeer_ne t hq _).trans (h.others q hq)) ?_
  rw [State.peer_onPeer_self, hentry]
  exact PeerEntry.Fits.accepted (hs.entries p) hp

theorem State.EntriesHold.firstSent {h : Option Handle} {q : Seq} {c : Carried}
    (hst : s.txs.staged = some (.firstSend h p q c)) : (s.firstSendOk h p q c).clearStaged.EntryLaw := by
  have hleft : ∀ (txs : Txs) (e : PeerEntry), e.Fits s.cfg.maxRetries → (s.outcomeLeft p c txs e).EntryLaw :=
    fun txs e he => hs.entries.onPeer (f := fun _ => e.carry c) (he.carry c)
  by_cases hm : ∃ h' m, h = some h' ∧ s.StandsAs p c h' m
  · obtain ⟨h', m, rfl, hm⟩ := hm
    rw [State.firstSendOk_stands hm]
    obtain ⟨-, hopen⟩ := hs.sessions.session.stands hst
    obtain ⟨-, hlinked, -⟩ := hopen (by rw [hm.1]; rfl)
    exact hleft _ _ (PeerEntry.Fits.firstSent (hs.entries p) hlinked
      (hs.ackTimeout (PeerEntry.isLive_iff.2 (.inr hlinked))) (hs.sessions.window.outstanding_le p))
  · rw [State.firstSendOk_fallen fun h' m hh hstands => hm ⟨h', m, hh, hstands⟩]
    exact hleft _ _ (hs.entries p)

theorem State.EntriesHold.controlOk (k : ControlKind) (c : Carried) : (s.controlOk k p c).EntryLaw := by
  have hdone : (s.onPeer p (PeerEntry.controlDone k c)).EntryLaw :=
    hs.entries.onPeer (PeerEntry.Fits.controlDone (hs.entries p) k c)
  exact hdone.onPeer (PeerEntry.Fits.carry (hdone p) c)

theorem State.EntriesHold.resendOk (h : Option Handle) (q : Seq) (c : Carried) : (s.resendOk h p q c).EntryLaw := by
  refine State.EntryLaw.onPeer ?_ (PeerEntry.Fits.carry ?_ c)
  · split
    · exact hs.entries
    · split <;> exact hs.entries
  · split
    · exact hs.entries p
    · split <;> exact hs.entries p

theorem State.EntriesHold.resynchronised {epoch : Epoch} (hr : s.isRunning = true)
    (hp : stationAddress p ≠ s.control.ownAddr) (he : epoch ≠ 0) : (s.resynchronised p epoch).EntryLaw := by
  have hack := hs.control.ackTimeout hr
  have hsilence := hs.control.silenceLimit hr
  have hself : (s.peer p).state ≠ .self := fun h => hp ((hs.sessions.peers.1 p).1 h)
  have hcfg := State.cfg_of_controlView (s := s) (s.controlView_resynchronised p epoch) rfl
  refine hs.entries.one p hcfg (fun q hq => ?_) ?_
  · rw [State.resynchronised, State.peer_onPeer_ne _ hq]
    split
    · rw [State.restartNoticed_peer, if_neg hq]
    · rfl
  · rw [State.resynchronised, State.peer_onPeer_self]
    split
    · rw [State.restartNoticed_peer, if_pos rfl, PeerEntry.restarted_eq]
      exact PeerEntry.fits_resynchronised he hack hsilence rfl rfl rfl rfl rfl rfl rfl
    next hl =>
      rw [PeerEntry.StateLaw.atRest (hs.entries p).1 (by simpa using hl)]
      exact PeerEntry.fits_resynchronised he hack hsilence rfl rfl rfl rfl rfl rfl rfl

theorem State.EntriesHold.opened {epoch : Epoch} (limit : Seq) (hr : s.isRunning = true) (he : epoch ≠ 0) :
    (s.opened p epoch limit).EntryLaw := by
  have hcfg := State.cfg_of_controlView (s := s) (s.controlView_opened p epoch limit) rfl
  refine hs.entries.one p hcfg (fun q hq => ?_) ?_
  · rw [State.opened, State.peer_onPeer_ne _ hq, State.restartNoticed_peer, if_neg hq]
  · rw [State.opened, State.peer_onPeer_self, State.restartNoticed_peer, if_pos rfl]
    exact PeerEntry.fits_opened _ limit he (hs.control.silenceLimit hr)

theorem State.EntriesHold.takeSeq (q : Seq) (payload : List Byte) (hp : (s.peer p).state = .linked) :
    (s.takeSeq p q payload).EntryLaw := by
  have hcounted : ∀ c, ((s.count c).onPeer p (PeerEntry.setAckPending s.cfg.ackDelay)).EntryLaw := fun c =>
    State.EntryLaw.onPeer (s := s.count c) hs.entries (PeerEntry.Fits.setAckPending (hs.entries p) s.cfg.ackDelay hp)
  unfold State.takeSeq
  split
  · exact State.EntryLaw.onPeer (s := s.onMst _) hs.entries
      (PeerEntry.Fits.setAckPending (PeerEntry.Fits.stored (hs.entries p) hp) s.cfg.ackDelay hp)
  · exact hs.entries
  · exact hcounted _
  · exact hcounted _

end

/-- After a reset every entry is ABSENT and at rest, or the own one (R24, R26). -/
theorem State.entryLaw_initial {s : State} (h : s.pen.peers = initialPeers s.control.ownAddr) : s.EntryLaw := by
  intro p
  rcases State.peer_initial h p with hp | hp <;> rw [hp]
  · exact PeerEntry.fits_absent _ 0
  · exact PeerEntry.fits_self _

/-- Every change keeps the law of the entries. -/
theorem State.EntriesHold.entries_change {s t : State} (hs : s.EntriesHold) (h : Change s t) : t.EntryLaw := by
  have hcleared : ∀ {u : State}, u.EntryLaw → u.clearStaged.EntryLaw := id
  cases h
  case tick => exact fun p => s.peer_tick p ▸ PeerEntry.Fits.tick (hs.entries p) s.timersHeld
  case helloSent e _ =>
    refine hcleared ?_
    unfold State.helloOk
    split <;> exact hs.entries
  case controlSent k p c _ => exact hcleared (hs.controlOk k c)
  case firstSent hst => exact hs.firstSent hst
  case resent h p q c _ => exact hcleared (hs.resendOk h q c)
  case failed =>
    rw [State.takeFailure_eq]
    exact hs.entries
  case group =>
    unfold State.groupReceived
    split
    · exact hs.entries
    · split <;> exact hs.entries
  case grant p h =>
    have heligible := (State.nextGrant_some h).2
    simp only [State.eligible, Bool.and_eq_true] at heligible
    exact hs.entries.onPeer (PeerEntry.Fits.granted (hs.entries p) s.cfg.ackDelay heligible.1.2)
  case refresh p hr hp => exact hs.entries.onPeer (PeerEntry.Fits.refreshed (hs.entries p) hp (hs.silenceLimit hp))
  case resynchronise hr hp he => exact hs.resynchronised hr hp he
  case openLink p e l hr hp he hl => exact hs.opened l hr he
  case leave p hp =>
    exact State.EntryLaw.onPeer (s := s.onTxs _) hs.entries (PeerEntry.fits_absent _ ((s.peer p).sessionCount + 1))
  case lose p hp =>
    exact State.EntryLaw.onPeer (s := s.onTxs _) hs.entries
      (PeerEntry.fits_lost _ ((s.peer p).sessionCount + 1) (PeerEntry.StateLaw.peerEpoch_ne_zero (hs.entries p).1 hp))
  case forget p hp => exact hs.entries.onPeer (PeerEntry.Fits.forgotten (hs.entries p) hp)
  case ackLimit hp ht => exact hs.ackLimit hp ht
  case accept hp ht => exact hs.accept hp ht
  case seq q payload hp => exact hs.takeSeq q payload hp
  case joinRetry p hp hn =>
    exact hs.entries.onPeer
      (PeerEntry.Fits.joinRetried (hs.entries p) hp hn (hs.ackTimeout (PeerEntry.isLive_iff.2 (.inl hp))))
  case ackRetry p hp ha hn =>
    exact State.EntryLaw.onPeer (s := s.onTxs _) hs.entries
      (PeerEntry.Fits.ackRetried (hs.entries p) hp ha hn (hs.ackTimeout (PeerEntry.isLive_iff.2 (.inr hp))))
  case ackDelay p hp _ => exact hs.entries.onPeer (PeerEntry.Fits.ackDelayed (hs.entries p) hp)
  case detach =>
    refine State.entryLaw_iff.2 fun p => ?_
    rw [State.cfg_of_controlView s.controlView_enterDetached rfl, s.peer_enterDetached, State.peer_withdrawAll]
    exact PeerEntry.Fits.withdrawn (hs.entries p)
  case beginLeaving =>
    refine State.entryLaw_iff.2 fun p => ?_
    rw [State.cfg_of_controlView s.controlView_beginLeaving rfl, s.peer_beginLeaving, State.peer_withdrawAll]
    exact PeerEntry.Fits.withdrawn (hs.entries p)
  case configure r ho _ =>
    have hunset : s.cfg = .unset := by rw [State.cfg, hs.control.1.2 ho]; rfl
    exact fun p => ⟨(hs.entries p).1, (hunset ▸ (hs.entries p).2).trans (Nat.zero_le _)⟩
  case endLeaving timedOut _ _ => cases timedOut <;> exact hs.entries
  case softReset => exact State.entryLaw_initial rfl
  all_goals exact hs.entries

theorem State.EntriesHold.change {s t : State} (hs : s.EntriesHold) (h : Change s t) : t.EntriesHold :=
  ⟨hs.control.change h, hs.sessions.change h, hs.entries_change h⟩

theorem State.EntriesHold.changes {s t : State} (hs : s.EntriesHold) (h : Changes s t) : t.EntriesHold := by
  induction h with
  | refl => exact hs
  | tail _ hc ih => exact ih.change hc

theorem stepInvariant_entriesHold : StepInvariant State.PresentedLaw State.EntriesHold where
  queues pending inputs hs :=
    ⟨stepInvariant_controlLaw.queues pending inputs hs.control,
      stepInvariant_sessionsHold.queues pending inputs hs.sessions, hs.entries⟩
  reset own phase low pending inputs :=
    ⟨stepInvariant_controlLaw.reset own phase low pending inputs,
      stepInvariant_sessionsHold.reset own phase low pending inputs, State.entryLaw_initial rfl⟩
  stage hp hs hc := hs.changes (State.changes_stage hp hc)
  change h hs := hs.change h

/-- Settles O59: every change that an event is made of keeps the law of the entries along with the laws it rests on. -/
theorem entriesHoldWhatTheirStateAllows : Obligations.EntriesHoldWhatTheirStateAllows := fun _ _ hs ht =>
  have ⟨hcontrol, _, hpresented, hslots, hpeers, hsession, hwindow, hentries, _⟩ := hs
  have hafter := stepInvariant_entriesHold.step ht (fun _ _ => hpresented)
    ⟨hcontrol, ⟨hslots, hpeers, hsession, hwindow⟩, hentries⟩
  hafter.entries

end Sys2Proof.Machine
end

section
/-! PROOFS. What a session restart and a session end complete and leave. -/

namespace Sys2Proof.Machine

/-- The SENT slots of a peer are those its session restart completes (R30). -/
theorem Txs.mem_sentInSequence_iff {t : Txs} (ht : t.SlotLaw) (p : Station) (oldest : Seq) (h : Handle) :
    h ∈ t.sentInSequence p oldest 64 ↔ (t.slot h).isSentTo p = true := by
  rw [Txs.mem_sentInSequence_all]
  exact ⟨And.right, fun hs => ⟨ht.mem_order (Slot.isOpen_of_isSentTo hs), hs⟩⟩

/-- The whole entry after a session restart: a reservation above 0 is due as a grant (R30). -/
theorem PeerEntry.restarted_granting (d : Nat) (e : PeerEntry) :
    e.restarted d = { e with
      sessionCount := e.sessionCount + 1
      grantLimit := e.grantLimit - e.expected
      nextTxSeq := 0
      oldestUnacked := 0
      heldLimit := 0
      expected := 0
      retryCount := 0
      ackTimer := 0
      ackPending := false
      grantPending := decide (e.grantLimit - e.expected ≠ 0)
      creditDue := decide (e.grantLimit - e.expected ≠ 0 ∧ d = 0)
      ackDelayTimer := if e.grantLimit - e.expected ≠ 0 then d else 0 } := by
  by_cases hr : e.grantLimit - e.expected = 0#6
  · simp [PeerEntry.restarted, hr]
  · by_cases hd : d = 0 <;> simp [PeerEntry.restarted, PeerEntry.setGrantPending, PeerEntry.startAckDelay, hr, hd]

/-- Settles O34: the completions of a restart in sequence order, and the entry it leaves. -/
theorem sessionRestartCompletesInOrder : Obligations.SessionRestartCompletesInOrder := by
  intro s p hs old sent staged r t
  obtain ⟨hslot, hcompletions, horder, hkept⟩ := Txs.voidSession_spec hs p old (sent := sent) (staged := staged) rfl rfl
  obtain ⟨hstaged, hpresented, hpointer⟩ := hkept
  refine ⟨hcompletions, horder, fun h m q marked hm hh => ?_, fun h m hm hh => ?_, fun h hh => ?_,
    Txs.mem_sentInSequence_iff hs p old, ?_⟩
  · exact (hslot h).trans (by rw [if_pos (List.mem_append_left _ hh), hm]; rfl)
  · exact (hslot h).trans (by rw [if_pos (List.mem_append_right _ hh), hm]; rfl)
  · exact (hslot h).trans (if_neg hh)
  · have htxs := Txs.eta_lists hstaged hpresented hpointer
    have hentry := PeerEntry.restarted_granting s.cfg.ackDelay (s.peer p)
    have ht : t = { s with
        txs := s.txs.voidSession p old
        pen := { s.pen with peers := s.pen.peers.set p ((s.peer p).restarted s.cfg.ackDelay) } } := rfl
    rw [ht, htxs, hentry]

/-- Settles O35: the completions of a session end in order, and the cleared entry. -/
theorem sessionEndCompletesInOrder : Obligations.SessionEndCompletesInOrder := by
  intro s p state peerEpoch hs old sent staged gone t
  obtain ⟨hslot, hgone, hcompletions, horder, hstaged, hpresented, hpointer⟩ :=
    Txs.endSession_spec hs p old (sent := sent) (staged := staged) (gone := gone) rfl rfl rfl
  refine ⟨hcompletions, horder, fun h m q marked hm hh => ?_, fun h m hm hh => ?_, fun h m hm hh => ?_, fun h hh => ?_,
    Txs.mem_sentInSequence_iff hs p old, ?_⟩
  · exact (hslot h).trans (by rw [if_pos (List.mem_append_left _ hh), hm]; rfl)
  · exact (hslot h).trans (by rw [if_pos (List.mem_append_right _ hh), hm]; rfl)
  · exact (hslot h).trans (by rw [if_neg (hgone h hh), if_pos hh, hm]; rfl)
  · have hrestart : h ∉ sent ++ staged := fun hm => hh (List.mem_append_left _ hm)
    have hrest : h ∉ gone := fun hm => hh (List.mem_append_right _ hm)
    exact (hslot h).trans (by rw [if_neg hrestart, if_neg hrest])
  · have htxs := Txs.eta_lists hstaged hpresented hpointer
    have ht : t = { s with
        txs := s.txs.endSession p old
        pen := { s.pen with
          peers := s.pen.peers.set p
            { PeerEntry.absentEntry with
              state := state, peerEpoch := peerEpoch, sessionCount := (s.peer p).sessionCount + 1 } } } := rfl
    rw [ht, htxs]

end Sys2Proof.Machine
end

section
/-! PROOFS. Frames from a peer at FCL: HELLO, OPEN, ACCEPT, CREDIT, DATA and GROUP. -/

namespace Sys2Proof.Machine

/-- A frame that arrives leaves what FCL makes of its record (R19, R21). -/
theorem Arrives.leaves {order : FrameOrder} {contention : BitVec 7} {bytes : List Byte} {p : Station} {f : FrameBody}
    {s u v : State} (h : Arrives order contention bytes p f s u) (hv : u.routeFrame p f = v) :
    Leaves (.goodFrame order contention bytes) s v := by
  obtain ⟨hline, hreceived, hown, rfl, hrunning⟩ := h
  refine event_leaves (exec_goodFrame order contention bytes s) hline.1 hline.lineIs ?_
  rw [State.receive_some hreceived, if_neg hown, State.takeRecord_routes hrunning, hv]

/-! ### The liveness refresh (R44) -/

section
variable (s : State) (p : Station)

/-- The silence timer of an entry in full. -/
def State.refreshed : State :=
  { s with pen := { s.pen with
      peers := s.pen.peers.set p { s.peer p with silenceTimer := s.cfg.silenceMultiple * s.cfg.helloInterval } } }

variable {s p}

theorem State.refresh_live (hl : (s.peer p).state = .syncing ∨ (s.peer p).state = .linked) :
    s.refresh p = s.refreshed p := by
  have hentry : s.refresh p = s.onPeer p fun e => { e with silenceTimer := silenceLimit s.cfg } :=
    State.onPeer_congr (if_pos (PeerEntry.isLive_iff.2 hl))
  exact hentry

theorem State.refresh_ignored (hl : ¬((s.peer p).state = .syncing ∨ (s.peer p).state = .linked)) : s.refresh p = s :=
  State.onPeer_unchanged (if_neg fun h => hl (PeerEntry.isLive_iff.1 h))

/-- An entry whose silence timer is in full already is not changed. -/
theorem State.refresh_unchanged (h : (s.peer p).silenceTimer = silenceLimit s.cfg) : s.refresh p = s := by
  refine State.onPeer_unchanged ?_
  split
  · rw [← h]
  · rfl

theorem State.refreshIfMatching_unchanged (h : (s.peer p).silenceTimer = silenceLimit s.cfg) (srcEpoch : Epoch) :
    s.refreshIfMatching p srcEpoch = s := by
  unfold State.refreshIfMatching
  split
  · exact State.refresh_unchanged h
  · rfl

theorem State.refreshIfMatching_eq (s : State) (p : Station) (srcEpoch : Epoch) :
    s.refreshIfMatching p srcEpoch
      = if ((s.peer p).state = .syncing ∨ (s.peer p).state = .linked) ∧ srcEpoch = (s.peer p).peerEpoch
        then s.refreshed p else s := by
  unfold State.refreshIfMatching
  by_cases he : srcEpoch = (s.peer p).peerEpoch
  · by_cases hl : (s.peer p).state = .syncing ∨ (s.peer p).state = .linked
    · rw [if_pos he, if_pos ⟨hl, he⟩, State.refresh_live hl]
    · rw [if_pos he, if_neg fun h => hl h.1, State.refresh_ignored hl]
  · rw [if_neg he, if_neg fun h => he h.2]

/-- What a refresh leaves of the entry: all but the silence timer. -/
theorem State.peer_refreshIfMatching (s : State) (p : Station) (srcEpoch : Epoch) :
    ∃ n, (s.refreshIfMatching p srcEpoch).peer p = { s.peer p with silenceTimer := n } := by
  rw [State.refreshIfMatching_eq]
  split
  · exact ⟨_, State.peer_onPeer_self s p fun e => { e with silenceTimer := silenceLimit s.cfg }⟩
  · exact ⟨(s.peer p).silenceTimer, rfl⟩

/-- Grants leave the silence timers (R78). -/
theorem State.grantAttempt_silenceTimer (s : State) (p : Station) :
    (s.grantAttempt.peer p).silenceTimer = (s.peer p).silenceTimer := by
  refine grantLoop_induction (P := fun t => (t.peer p).silenceTimer = (s.peer p).silenceTimer) (fun t q ht _ => ?_) _ s rfl
  have hgranted : ∀ e : PeerEntry, (e.granted t.cfg.ackDelay).silenceTimer = e.silenceTimer := fun e => by
    rw [PeerEntry.granted_eq]
  have hentry : (t.grantTo q).peer p = if q = p then (t.peer q).granted t.cfg.ackDelay else t.peer p :=
    State.peer_onPeer t q p _
  rw [hentry]
  split
  next hq => rw [hgranted, hq, ht]
  next => exact ht

theorem State.grantAttempt_cfg (s : State) : s.grantAttempt.cfg = s.cfg := by
  rw [State.grantAttempt_frame]
  rfl

end

/-! ### HELLO (R32, R33, R34) -/

/-- A peer that FCL has just resynchronised or linked has its silence timer in full. -/
theorem State.silenceTimer_entered {t s : State} {p : Station} (hcfg : t.cfg = s.cfg)
    (h : (t.peer p).silenceTimer = silenceLimit s.cfg) :
    (t.grantAttempt.peer p).silenceTimer = silenceLimit t.grantAttempt.cfg := by
  rw [State.grantAttempt_silenceTimer, State.grantAttempt_cfg, hcfg, h]

theorem State.silenceTimer_resynchronise (s : State) (p : Station) (epoch : Epoch) :
    ((s.resynchronise p epoch).peer p).silenceTimer = silenceLimit (s.resynchronise p epoch).cfg := by
  rw [State.resynchronise_eq]
  refine State.silenceTimer_entered (State.cfg_of_controlView (s := s) (s.controlView_resynchronised p epoch) rfl) ?_
  rw [State.resynchronised, State.peer_onPeer_self]

theorem State.silenceTimer_openLink {s : State} {p : Station} {epoch : Epoch} {limit : Seq} (hl : limit.toNat ≤ 15) :
    ((s.openLink p epoch limit).peer p).silenceTimer = silenceLimit (s.openLink p epoch limit).cfg := by
  have hlink : s.openLink p epoch limit = ((s.opened p epoch limit).raise (.peerLinked p)).grantAttempt :=
    if_neg (Nat.not_lt.2 hl)
  rw [hlink]
  refine State.silenceTimer_entered (s := s) ?_ ?_
  · rw [State.cfg_raise]
    exact State.cfg_of_controlView (s := s) (s.controlView_opened p epoch limit) rfl
  · rw [State.peer_raise, State.opened, State.peer_onPeer_self]

/-- A resynchronisation, from whatever the state of the peer makes of the session (R32). -/
theorem State.resynchronise_from {u v : State} {p : Station} (epoch : Epoch)
    (hv : v = if (u.peer p).isLive then u.restartNoticed p else u) :
    u.resynchronise p epoch
      = ({ v with pen := { v.pen with
          peers := v.pen.peers.set p { v.peer p with
            peerEpoch := epoch
            state := .syncing
            openPending := true
            acceptPending := false
            joinTimer := u.cfg.ackTimeout
            silenceTimer := u.cfg.silenceMultiple * u.cfg.helloInterval } } } : State).grantAttempt := by
  subst hv
  rfl

/-- Settles O40: each state of the peer, and the LEAVING flag. -/
theorem helloResynchronisesOrRefreshes : Obligations.HelloResynchronisesOrRefreshes := by
  intro order contention bytes p epoch leaving s u h leaves limit restarted resync
  have hroute : ∀ b, epoch ≠ 0 → u.routeFrame p (.hello epoch b)
      = if b then u.leavingHelloReceived p else (u.helloReceived p epoch).refresh p := fun b he => by
    rw [State.routeFrame, if_neg he]
  refine ⟨fun he => h.leaves ?_, fun he hleaving => ?_, fun he hleaving => ?_⟩
  · rw [State.routeFrame, if_pos he]
    rfl
  · subst hleaving
    have hresync : u.helloReceived p epoch = u.resynchronise p epoch → leaves resync := fun hreceived => by
      refine h.leaves ((hroute false he).trans ?_)
      rw [if_neg Bool.false_ne_true, hreceived, State.refresh_unchanged (u.silenceTimer_resynchronise p epoch)]
      refine State.resynchronise_from epoch ?_
      cases hx : (u.peer p).state <;> simp_all [restarted, PeerEntry.isLive, State.restartNoticed]
    refine ⟨fun hp => ?_, fun hp hsame => h.leaves ((hroute false he).trans ?_)⟩
    · rcases hp with hp | hp | ⟨hp | hp, hne⟩ <;> refine hresync ?_
      · simp only [State.helloReceived, hp]
      · simp only [State.helloReceived, hp]
      · simp only [State.helloReceived, hp, if_neg hne]
      · simp only [State.helloReceived, hp, if_neg hne]
    · have hkept : u.helloReceived p epoch = u := by
        rcases hp with hp | hp <;> simp only [State.helloReceived, hp, if_pos hsame]
      rw [if_neg Bool.false_ne_true, hkept, State.refresh_live hp]
      rfl
  · subst hleaving
    have hends := hroute true he
    rw [if_pos rfl] at hends
    refine ⟨fun hp => h.leaves (hends.trans ?_), fun hp => h.leaves (hends.trans ?_),
      fun hp => h.leaves (hends.trans ?_)⟩
    · rcases hp with hp | hp <;> simp only [State.leavingHelloReceived, hp]
    · simp only [State.leavingHelloReceived, hp]
      rfl
    · simp only [State.leavingHelloReceived, hp]

end Sys2Proof.Machine
end

section
/-! PROOFS. Control frames, DATA and GROUP at FCL. -/

namespace Sys2Proof.Machine

/-! ### OPEN (R37, R38) -/

theorem State.routeFrame_control {u : State} {p : Station} {k : ControlKind} {srcEpoch dstEpoch : Epoch} {a l : Seq} :
    u.routeFrame p (.control k u.control.ownAddr srcEpoch dstEpoch a l)
      = u.controlReceived p k srcEpoch dstEpoch a l := by
  rw [State.routeFrame, if_pos rfl]

theorem State.controlReceived_stale {u : State} {p : Station} {k : ControlKind} {srcEpoch dstEpoch : Epoch} {a l : Seq}
    (he : srcEpoch = 0) : u.controlReceived p k srcEpoch dstEpoch a l = u.stale := if_pos he

/-- Settles O41: stale, linked or resynchronised, and the refresh that follows. -/
theorem openLinksOrResynchronises : Obligations.OpenLinksOrResynchronises := by
  intro order contention bytes p srcEpoch dstEpoch a l s u h leaves stale limit live again enter
  have hroute : srcEpoch ≠ 0 → u.routeFrame p (.control .openFrame u.control.ownAddr srcEpoch dstEpoch a l)
      = (u.openReceived p srcEpoch dstEpoch l).refreshIfMatching p srcEpoch := fun he => by
    rw [State.routeFrame_control, State.controlReceived, if_neg he]
  refine ⟨fun he => h.leaves ?_, fun he hdst hl => ?_, fun he hdst hl => h.leaves ?_, fun he hdst => ?_⟩
  · rw [State.routeFrame_control, State.controlReceived_stale he]
    rfl
  · have hstale : u.openReceived p srcEpoch dstEpoch l = stale := by
      rw [State.openReceived, if_pos hdst, State.openLink]
      exact if_pos hl
    rw [hstale, State.refreshIfMatching_eq] at hroute
    refine ⟨fun hmatch => h.leaves ((hroute he).trans ?_), fun hno => h.leaves ((hroute he).trans ?_)⟩
    · exact if_pos hmatch
    · exact if_neg hno
  · rw [hroute he, State.openReceived, if_pos hdst,
      State.refreshIfMatching_unchanged (State.silenceTimer_openLink hl), State.openLink]
    exact if_neg (Nat.not_lt.2 hl)
  · intro resync
    have hresync : ∀ v, v = (if (u.peer p).isLive then u.restartNoticed p else u) → leaves (resync v) := fun v hv => by
      refine h.leaves ?_
      rw [hroute he, State.openReceived, if_neg hdst,
        State.refreshIfMatching_unchanged (u.silenceTimer_resynchronise p srcEpoch)]
      exact State.resynchronise_from srcEpoch hv
    refine ⟨fun hlive => hresync again ?_, fun hlive => hresync u ?_⟩
    · exact (if_pos (PeerEntry.isLive_iff.2 hlive)).symm
    · exact (if_neg fun hl => hlive (PeerEntry.isLive_iff.1 hl)).symm

/-! ### Frames that carry ack and limit (R39, R41, R49) -/

section
variable {v : State} {p : Station} {srcEpoch dstEpoch : Epoch} {a l : Seq}

theorem State.isCurrent_iff :
    v.isCurrent p srcEpoch dstEpoch = true ↔ srcEpoch = (v.peer p).peerEpoch ∧ dstEpoch = v.control.epoch := by
  simp [State.isCurrent]

theorem State.acceptReceived_stale
    (h : ¬((v.peer p).isLive = true ∧ v.isCurrent p srcEpoch dstEpoch = true) ∨ v.takeAckLimit p a l = none) :
    v.acceptReceived p srcEpoch dstEpoch a l = v.stale := by
  unfold State.acceptReceived
  split
  next hc =>
    rw [h.resolve_left (fun hno => hno (Bool.and_eq_true_iff.1 hc))]
  next => rfl

theorem State.acceptReceived_taken {w : State} (hl : (v.peer p).isLive = true)
    (hc : v.isCurrent p srcEpoch dstEpoch = true) (hw : v.takeAckLimit p a l = some w) :
    v.acceptReceived p srcEpoch dstEpoch a l = if (v.peer p).state = .syncing then w.acceptLink p else w := by
  rw [State.acceptReceived, if_pos (by rw [hl, hc]; rfl), hw]

theorem State.creditReceived_stale
    (h : ¬((v.peer p).state = .linked ∧ v.isCurrent p srcEpoch dstEpoch = true) ∨ v.takeAckLimit p a l = none) :
    v.creditReceived p srcEpoch dstEpoch a l = v.stale := by
  unfold State.creditReceived
  split
  next hc =>
    simp only [State.passesEpochTest, Bool.and_eq_true, beq_iff_eq] at hc
    rw [h.resolve_left (fun hno => hno hc)]
  next => rfl

theorem State.creditReceived_taken {w : State} (hl : (v.peer p).state = .linked)
    (hc : v.isCurrent p srcEpoch dstEpoch = true) (hw : v.takeAckLimit p a l = some w) :
    v.creditReceived p srcEpoch dstEpoch a l = w := by
  rw [State.creditReceived, if_pos (by rw [State.passesEpochTest, hl, hc]; rfl), hw]

theorem State.dataReceived_stale {q : Seq} {payload : List Byte}
    (h : ¬((v.peer p).state = .linked ∧ v.isCurrent p srcEpoch dstEpoch = true) ∨ v.takeAckLimit p a l = none) :
    v.dataReceived p srcEpoch dstEpoch q a l payload = v.stale := by
  unfold State.dataReceived
  split
  next hc =>
    simp only [State.passesEpochTest, Bool.and_eq_true, beq_iff_eq] at hc
    rw [h.resolve_left (fun hno => hno hc)]
  next => rfl

theorem State.dataReceived_taken {w : State} {q : Seq} {payload : List Byte} (hl : (v.peer p).state = .linked)
    (hc : v.isCurrent p srcEpoch dstEpoch = true) (hw : v.takeAckLimit p a l = some w) :
    v.dataReceived p srcEpoch dstEpoch q a l payload = w.takeSeq p q payload := by
  rw [State.dataReceived, if_pos (by rw [State.passesEpochTest, hl, hc]; rfl), hw]

end

/-- The refresh leaves what the epoch test looks at (R28, R44). -/
theorem State.current_refreshIfMatching (u : State) (p : Station) (srcEpoch dstEpoch : Epoch) :
    ((u.refreshIfMatching p srcEpoch).peer p).state = (u.peer p).state
      ∧ ((u.refreshIfMatching p srcEpoch).isCurrent p srcEpoch dstEpoch = true
          ↔ srcEpoch = (u.peer p).peerEpoch ∧ dstEpoch = u.control.epoch) := by
  obtain ⟨n, hn⟩ := u.peer_refreshIfMatching p srcEpoch
  have hcontrol := u.refreshIfMatching_control p srcEpoch
  rw [State.isCurrent_iff, hn, hcontrol]
  exact ⟨rfl, Iff.rfl⟩

/-- Settles O42: ACCEPT and CREDIT, stale or taken. -/
theorem acceptAndCreditCarryAckAndLimit : Obligations.AcceptAndCreditCarryAckAndLimit := by
  intro order contention bytes p k srcEpoch dstEpoch a l s u h hk leaves stale live v taken
  have hv : u.refreshIfMatching p srcEpoch = v := u.refreshIfMatching_eq p srcEpoch
  obtain ⟨hstate, hcurrent⟩ := u.current_refreshIfMatching p srcEpoch dstEpoch
  rw [hv] at hstate hcurrent
  have hroute : srcEpoch ≠ 0 → u.routeFrame p (.control k u.control.ownAddr srcEpoch dstEpoch a l)
      = if k = .acceptFrame then v.acceptReceived p srcEpoch dstEpoch a l
        else v.creditReceived p srcEpoch dstEpoch a l := fun he => by
    rw [State.routeFrame_control, ← hv]
    cases k
    case openFrame => exact absurd rfl hk
    case acceptFrame => exact if_neg he
    case creditFrame => exact if_neg he
  have hstale : ¬taken ∨ v.takeAckLimit p a l = none → srcEpoch ≠ 0 → leaves (stale v) := fun hno he => by
    refine h.leaves ((hroute he).trans ?_)
    split
    next haccept =>
      refine State.acceptReceived_stale (hno.imp_left fun hno hc => hno ?_)
      obtain ⟨hepoch, hdst⟩ := hcurrent.1 hc.2
      have hlive := PeerEntry.isLive_iff.1 hc.1
      rw [hstate] at hlive
      exact ⟨hepoch, hdst, hlive.elim (fun hs => .inr ⟨hs, haccept⟩) .inl⟩
    next =>
      refine State.creditReceived_stale (hno.imp_left fun hno hc => hno ?_)
      obtain ⟨hepoch, hdst⟩ := hcurrent.1 hc.2
      exact ⟨hepoch, hdst, .inl (hstate ▸ hc.1)⟩
  refine ⟨fun he => h.leaves ?_, fun he hno => hstale (.inl hno) he, fun he _ hnone => hstale (.inr hnone) he,
    fun he ht hl w hw => h.leaves ((hroute he).trans ?_), fun he ht hl w hw => h.leaves ((hroute he).trans ?_)⟩
  · rw [State.routeFrame_control, State.controlReceived_stale he]
    rfl
  · have hlinked := hstate.trans hl
    have hc := hcurrent.2 ⟨ht.1, ht.2.1⟩
    split
    · rw [State.acceptReceived_taken (PeerEntry.isLive_iff.2 (.inr hlinked)) hc hw, if_neg (by rw [hlinked]; decide)]
    · exact State.creditReceived_taken hlinked hc hw
  · have hsyncing := hstate.trans hl
    have hc := hcurrent.2 ⟨ht.1, ht.2.1⟩
    have haccept : k = .acceptFrame := (ht.2.2.resolve_left (by rw [hl]; decide)).2
    rw [if_pos haccept, State.acceptReceived_taken (PeerEntry.isLive_iff.2 (.inl hsyncing)) hc hw, if_pos hsyncing]
    rfl

/-! ### DATA (R55, R56, R57) -/

/-- The distance of a seq behind the one expected is 0 for that one only. -/
theorem PeerEntry.seqDecision_behind {q : Seq} {e : PeerEntry} (h : 1 ≤ (e.expected - q).toNat) :
    e.seqDecision q = if (e.expected - q).toNat ≤ 32 then .duplicate else .outOfOrder := by
  have hne : q ≠ e.expected := fun hq => by
    rw [hq, sub_self] at h
    exact absurd h (by decide)
  rw [PeerEntry.seqDecision, if_neg hne]

section
variable {w : State} {p : Station} {q : Seq} {payload : List Byte}

theorem State.takeSeq_accept (h : (w.peer p).seqDecision q = .accept) :
    w.takeSeq p q payload
      = (w.onMst (Mst.store ⟨p, .data q, payload, w.stamp⟩)).onPeer p fun e =>
          { e with expected := e.expected + 1 }.setAckPending w.cfg.ackDelay := by
  simp only [State.takeSeq, h]

theorem State.takeSeq_creditViolation (h : (w.peer p).seqDecision q = .creditViolation) :
    w.takeSeq p q payload = w.count .creditViolations := by
  simp only [State.takeSeq, h]

theorem State.takeSeq_duplicate (h : (w.peer p).seqDecision q = .duplicate) :
    w.takeSeq p q payload = (w.count .duplicates).onPeer p (PeerEntry.setAckPending w.cfg.ackDelay) := by
  simp only [State.takeSeq, h]

theorem State.takeSeq_outOfOrder (h : (w.peer p).seqDecision q = .outOfOrder) :
    w.takeSeq p q payload = (w.count .outOfOrder).onPeer p (PeerEntry.setAckPending w.cfg.ackDelay) := by
  simp only [State.takeSeq, h]

end

/-- Settles O43: stale as a CREDIT is, or the decision on its seq. -/
theorem dataIsStoredInSequenceWithinCredit : Obligations.DataIsStoredInSequenceWithinCredit := by
  intro order contention bytes p srcEpoch dstEpoch q a l payload s u h leaves stale live v taken flagged withEntry
  have hv : u.refreshIfMatching p srcEpoch = v := u.refreshIfMatching_eq p srcEpoch
  obtain ⟨hstate, hcurrent⟩ := u.current_refreshIfMatching p srcEpoch dstEpoch
  have hcontrol := u.refreshIfMatching_control p srcEpoch
  rw [hv] at hstate hcurrent hcontrol
  have hroute : srcEpoch ≠ 0 → u.routeFrame p (.data u.control.ownAddr srcEpoch dstEpoch q a l payload)
      = v.dataReceived p srcEpoch dstEpoch q a l payload := fun he => by
    rw [State.routeFrame, if_pos rfl, if_neg he, hv]
  have hstale : ¬taken ∨ v.takeAckLimit p a l = none → srcEpoch ≠ 0 → leaves (stale v) := fun hno he => by
    refine h.leaves ((hroute he).trans (State.dataReceived_stale (hno.imp_left fun hno hc => hno ?_)))
    obtain ⟨hepoch, hdst⟩ := hcurrent.1 hc.2
    exact ⟨hepoch, hdst, hstate ▸ hc.1⟩
  refine ⟨fun he => h.leaves ?_, fun he hno => hstale (.inl hno) he, fun he _ hnone => hstale (.inr hnone) he,
    fun he ht w hw => ?_⟩
  · rw [State.routeFrame, if_pos rfl, if_pos he]
    rfl
  · intro e room
    obtain ⟨hepoch, hdst, hlinked⟩ := ht
    have htaken := (hroute he).trans
      (State.dataReceived_taken (q := q) (payload := payload) (hstate.trans hlinked) (hcurrent.2 ⟨hepoch, hdst⟩) hw)
    have hcfg : w.cfg = u.cfg := by
      rw [State.cfg, (State.takesAckLimit hw).control, hcontrol, State.cfg]
    have hflagged : ∀ x : PeerEntry, x.setAckPending w.cfg.ackDelay = flagged x := fun x => by
      rw [hcfg]
      rfl
    have hstored := hflagged { e with expected := e.expected + 1 }
    have hkept := hflagged e
    refine ⟨fun hq hroom => h.leaves (htaken.trans ?_), fun hq hroom => h.leaves (htaken.trans ?_),
      fun hlow hhigh => h.leaves (htaken.trans ?_), fun hfar => h.leaves (htaken.trans ?_)⟩
    · have hdecision : e.seqDecision q = .accept := by rw [PeerEntry.seqDecision, if_pos hq]; exact if_pos hroom
      rw [State.takeSeq_accept hdecision]
      exact congrArg (withEntry _) hstored
    · have hdecision : e.seqDecision q = .creditViolation := by
        rw [PeerEntry.seqDecision, if_pos hq]
        exact if_neg (by rw [show e.reservation = 0 from hroom]; decide)
      rw [State.takeSeq_creditViolation hdecision]
      rfl
    · have hdecision : e.seqDecision q = .duplicate := by rw [PeerEntry.seqDecision_behind hlow, if_pos hhigh]
      rw [State.takeSeq_duplicate hdecision]
      exact congrArg (withEntry _) hkept
    · have hdecision : e.seqDecision q = .outOfOrder := by
        rw [PeerEntry.seqDecision_behind (by omega), if_neg (by omega)]
      rw [State.takeSeq_outOfOrder hdecision]
      exact congrArg (withEntry _) hkept

/-! ### GROUP (R76, R117) -/

/-- The refresh of a frame without an epoch (R44). -/
theorem State.refresh_eq (u : State) (p : Station) :
    u.refresh p = if (u.peer p).state = .syncing ∨ (u.peer p).state = .linked then u.refreshed p else u := by
  split
  next hl => exact State.refresh_live hl
  next hl => exact State.refresh_ignored hl

section
variable {v : State} {p : Station} {tag : Byte} {payload : List Byte}

theorem State.groupReceived_filtered (h : acceptingEntry v.cfg.filters tag = none) :
    v.groupReceived p tag payload = v.count .groupFiltered := by
  simp only [State.groupReceived, h]

theorem State.groupReceived_noRoom {i : Fin 8} (h : acceptingEntry v.cfg.filters tag = some i)
    (hroom : v.cfg.headroom ≤ v.mst.storedGroup) : v.groupReceived p tag payload = v.count .groupNoRoom := by
  simp only [State.groupReceived, h, if_neg (Nat.not_lt.2 hroom)]

theorem State.groupReceived_stored {i : Fin 8} (h : acceptingEntry v.cfg.filters tag = some i)
    (hroom : v.mst.storedGroup < v.cfg.headroom) :
    v.groupReceived p tag payload = v.onMst (Mst.store ⟨p, .group i tag, payload, v.stamp⟩) := by
  simp only [State.groupReceived, h, if_pos hroom]

end

/-- Settles O44: filtered, without room, or stored. -/
theorem groupIsFilteredThenStoredInHeadroom : Obligations.GroupIsFilteredThenStoredInHeadroom := by
  intro order contention bytes p tag payload s u h leaves v
  have hroute : u.routeFrame p (.group tag payload) = v.groupReceived p tag payload :=
    congrArg (State.groupReceived p tag payload) (u.refresh_eq p)
  have hcfg : v.cfg = u.cfg := by rw [← show u.refresh p = v from u.refresh_eq p]; rfl
  have hmst : v.mst = u.mst := by rw [← show u.refresh p = v from u.refresh_eq p]; rfl
  rw [← hcfg, ← hmst]
  refine ⟨fun hnone => h.leaves (hroute.trans ?_), fun i hi hroom => h.leaves (hroute.trans ?_),
    fun i hi hroom => h.leaves (hroute.trans ?_)⟩
  · rw [State.groupReceived_filtered hnone]
    rfl
  · rw [State.groupReceived_noRoom hi hroom]
    rfl
  · rw [State.groupReceived_stored hi hroom]
    rfl

end Sys2Proof.Machine
end

section
/-! PROOFS. Timers: retries and losses, frames made due, the rejoin, and what does not expire. -/

namespace Sys2Proof.Machine

/-! ### When a timer may expire -/

section
variable {s : State} {p : Station}

theorem State.joinMayExpire_iff :
    s.joinMayExpire p = true ↔ s.hmn.level ≠ .guarded ∧ (s.peer p).state = .syncing ∧ (s.peer p).joinTimer = 1 := by
  simp [State.joinMayExpire, State.timersHeld, ranOut, and_assoc]

theorem State.ackMayExpire_iff :
    s.ackMayExpire p = true ↔ s.hmn.level ≠ .guarded ∧ (s.peer p).state = .linked ∧ (s.peer p).ackTimer = 1 := by
  simp [State.ackMayExpire, State.timersHeld, ranOut, and_assoc]

theorem State.silenceMayExpire_iff :
    s.silenceMayExpire p = true
      ↔ ((s.peer p).state = .syncing ∨ (s.peer p).state = .linked) ∧ (s.peer p).silenceTimer = 1 := by
  simp [State.silenceMayExpire, ranOut, PeerEntry.isLive_iff]

theorem State.ackDelayMayExpire_iff :
    s.ackDelayMayExpire p = true
      ↔ ((s.peer p).state = .syncing ∨ (s.peer p).state = .linked) ∧ (s.peer p).ackDelayTimer = 1 := by
  simp [State.ackDelayMayExpire, ranOut, PeerEntry.isLive_iff]

theorem State.helloMayExpire_iff : s.helloMayExpire = true ↔ s.control.opState = .running ∧ s.pen.helloTimer = 1 := by
  simp [State.helloMayExpire, State.isRunning, ranOut]

theorem State.holdoffMayExpire_iff : s.holdoffMayExpire = true ↔ s.control.opState = .detached ∧ s.hmn.holdoff = 1 := by
  simp [State.holdoffMayExpire, ranOut]

theorem State.leaveLimitMayExpire_iff :
    s.leaveLimitMayExpire = true ↔ s.control.opState = .leaving ∧ s.control.leaveLimit = 1 := by
  simp [State.leaveLimitMayExpire, ranOut]

end

/-- An event whose condition fails changes nothing (R149; log entry 3). -/
theorem exec_ignored {c : Instr} {reaches : State → Bool} {effect : State → State} {s : State}
    (hc : exec c s = event reaches effect s) (h : ¬reaches s = true) : exec c s = .next s :=
  hc.trans (event_ignored (by simpa using h))

/-! ### Retries and losses (R42, R43, R63, R64) -/

/-- The marking of a peer's SENT slots, slot by slot (R64). -/
theorem Txs.markSent_slots {t : Txs} (ht : t.SlotLaw) (p : Station) :
    (t.markSent p).slots
      = Vector.ofFn fun h : Handle => if (t.slot h).isSentTo p then (t.slot h).withMark true else t.slot h := by
  have hslot : ∀ h : Handle, (t.markSent p).slot h
      = if (t.slot h).isSentTo p then (t.slot h).withMark true else t.slot h := fun h => by
    rw [Txs.slot_markSent]
    by_cases hs : (t.slot h).isSentTo p = true
    · rw [if_pos ⟨ht.mem_order (Slot.isOpen_of_isSentTo hs), hs⟩, if_pos hs]
    · rw [if_neg fun hc => hs hc.2, if_neg hs]
  refine Vector.ext fun i hi => ?_
  rw [Vector.getElem_ofFn]
  exact hslot ⟨i, hi⟩

/-- Settles O45: a retry while they last, then the loss of the peer. -/
theorem peerTimersRetryThenLoseThePeer : Obligations.PeerTimersRetryThenLoseThePeer := by
  intro s p hreset e lost
  have hawake : s.hmn.level = .sound → s.hmn.level ≠ .guarded := fun h => by rw [h]; decide
  refine ⟨fun hlevel hstate htimer => ?_, fun hlevel hstate htimer => ?_, fun hstate htimer => ?_⟩
  · have hexpires := State.joinMayExpire_iff.2 ⟨hawake hlevel, hstate, htimer⟩
    refine ⟨fun hn => event_leaves (exec_joinTimerExpiry p s) hreset hexpires ?_,
      fun hn => event_leaves (exec_joinTimerExpiry p s) hreset hexpires ?_⟩
    · rw [State.joinExpiry, if_pos hn]
      rfl
    · rw [State.joinExpiry, if_neg (Nat.not_lt.2 hn)]
      rfl
  · have hexpires := State.ackMayExpire_iff.2 ⟨hawake hlevel, hstate, htimer⟩
    refine ⟨fun hn hs => event_leaves (exec_ackTimerExpiry p s) hreset hexpires ?_,
      fun hn => event_leaves (exec_ackTimerExpiry p s) hreset hexpires ?_⟩
    · rw [State.ackExpiry, if_pos hn, ← Txs.markSent_slots hs p, ← Txs.markSent_frame]
      rfl
    · rw [State.ackExpiry, if_neg (Nat.not_lt.2 hn)]
      rfl
  · exact event_leaves (exec_silenceTimerExpiry p s) hreset (State.silenceMayExpire_iff.2 ⟨hstate, htimer⟩) rfl

/-! ### Frames made due, and the rejoin (R35, R59, R137) -/

/-- Settles O46: each expiry with its effect, and none early. -/
theorem timersExpireWithTheirEffectOrNotAtAll : Obligations.TimersExpireWithTheirEffectOrNotAtAll := by
  refine ⟨fun s hreset => ⟨fun p hstate htimer => ?_, fun ho htimer => ?_, fun ho htimer => ?_⟩, fun s =>
    ⟨fun p hno => ?_, fun p hno => ?_, fun p hno => ?_, fun p hno => ?_, fun hno => ?_, fun hno => ?_, fun hno => ?_⟩⟩
  · exact event_leaves (exec_ackDelayExpiry p s) hreset (State.ackDelayMayExpire_iff.2 ⟨hstate, htimer⟩) rfl
  · exact event_leaves (exec_helloTimerExpiry s) hreset (State.helloMayExpire_iff.2 ⟨ho, htimer⟩) rfl
  · exact event_leaves (exec_holdoffExpiry s) hreset (State.holdoffMayExpire_iff.2 ⟨ho, htimer⟩) rfl
  · refine exec_ignored (exec_joinTimerExpiry p s) fun h => ?_
    obtain ⟨hlevel, -, htimer⟩ := State.joinMayExpire_iff.1 h
    exact hno.elim (fun hne => hne htimer) hlevel
  · refine exec_ignored (exec_ackTimerExpiry p s) fun h => ?_
    obtain ⟨hlevel, -, htimer⟩ := State.ackMayExpire_iff.1 h
    exact hno.elim (fun hne => hne htimer) hlevel
  · exact exec_ignored (exec_silenceTimerExpiry p s) fun h => hno (State.silenceMayExpire_iff.1 h).2
  · exact exec_ignored (exec_ackDelayExpiry p s) fun h => hno (State.ackDelayMayExpire_iff.1 h).2
  · exact exec_ignored (exec_helloTimerExpiry s) fun h => hno (State.helloMayExpire_iff.1 h).2
  · exact exec_ignored (exec_holdoffExpiry s) fun h => hno (State.holdoffMayExpire_iff.1 h).2
  · exact exec_ignored (exec_leaveLimitExpiry s) fun h => hno (State.leaveLimitMayExpire_iff.1 h).2

end Sys2Proof.Machine
end

section
/-! PROOFS. SENT_OK of control frames and HELLO, and the snapshot commands. -/

namespace Sys2Proof.Machine

/-! ### SENT_OK of control frames and HELLO (R35, R40, R61, R104, R109) -/

/-- Both orders of HMN's report about an outcome that is known wherever the record is still staged (R131). -/
theorem State.Sending.leaves {s : State} {r : StagingRecord} (h : s.Sending r) {done : State → State}
    (hdone : ∀ v : State, v.txs.staged = some r → v.takeSentOk = done v) :
    Leaves (.sentOk false) s (done (s.sentCounted.healthReport .sentOk))
      ∧ Leaves (.sentOk true) s ((done s.sentCounted).chooseAndStage.healthReport .sentOk) := by
  obtain ⟨hreset, ht, hstaged⟩ := h
  have hfirst : (s.sentCounted.healthReport .sentOk).txs.staged = some r :=
    (State.staged_of_lineView (s.sentCounted.lineView_healthReport .sentOk)).trans hstaged
  have hscore : s.sentOk false = done (s.sentCounted.healthReport .sentOk) := hdone _ hfirst
  have hstaging : s.sentOk true = (done s.sentCounted).chooseAndStage.healthReport .sentOk :=
    congrArg (fun v : State => v.chooseAndStage.healthReport .sentOk) (hdone s.sentCounted hstaged)
  exact ⟨event_leaves (exec_sentOk false s) hreset ht (by rw [hscore]),
    event_leaves (exec_sentOk true s) hreset ht (by rw [hstaging])⟩

/-- The flags that SENT_OK of a control frame clears, spelled field by field (R40). -/
theorem PeerEntry.controlDone_eq (k : ControlKind) (c : Carried) (e : PeerEntry) :
    e.controlDone k c = { e with
      openPending := e.openPending && !(decide (e.sessionCount = c.sessionCount ∧ k = ControlKind.openFrame))
      acceptPending := e.acceptPending && !(decide (e.sessionCount = c.sessionCount ∧ k = ControlKind.acceptFrame)) } := by
  by_cases hsame : e.sessionCount = c.sessionCount
  · cases k <;> simp [PeerEntry.controlDone, ← hsame]
  · simp [PeerEntry.controlDone, hsame]

/-- Settles O30: what SENT_OK clears, in both orders of HMN's report. -/
theorem controlAndHelloOutcome : Obligations.ControlAndHelloOutcome := by
  constructor
  · intro s k p c hs done
    refine hs.leaves (done := done) fun v hv => ?_
    have htaken : v.takeSentOk = (v.controlOk k p c).clearStaged := by rw [State.takeSentOk, hv]
    have hentry := PeerEntry.controlDone_eq k c (v.peer p)
    rw [htaken, State.controlOk, State.carry, State.onPeer_onPeer]
    simp only [done, ← hentry]
    rfl
  · intro s e hs done
    refine hs.leaves (done := done) fun v hv => ?_
    have htaken : v.takeSentOk = (v.helloOk e).clearStaged := by rw [State.takeSentOk, hv]
    rw [htaken, State.helloOk]
    split
    next he =>
      simp only [done, he, decide_true, Bool.not_true, Bool.and_false]
      rfl
    next he =>
      simp only [done, he, decide_false, Bool.not_false, Bool.and_true]
      rfl

/-! ### The snapshot commands (R47, R171, R172, R174, R183) -/

/-- A byte of a number, whatever word of enough bits it is cut from. -/
theorem extractLsb'_ofNat_byte {w k : Nat} (hk : k + 8 ≤ w) (n : Nat) :
    (BitVec.ofNat w n).extractLsb' k 8 = BitVec.ofNat 8 (n / 2 ^ k) := by
  refine BitVec.eq_of_getLsbD_eq fun i hi => ?_
  rw [BitVec.getLsbD_extractLsb', BitVec.getLsbD_ofNat, BitVec.getLsbD_ofNat, Nat.testBit_div_two_pow]
  simp only [hi, decide_true, Bool.true_and]
  rw [decide_eq_true (by omega), Bool.true_and, Nat.add_comm]

theorem wordBytes_eq (n : Nat) : wordBytes n = [BitVec.ofNat 8 (n / 256), BitVec.ofNat 8 n] := by
  have hlow := extractLsb'_ofNat_byte (w := 16) (k := 0) (by decide) n
  have hhigh := extractLsb'_ofNat_byte (w := 16) (k := 8) (by decide) n
  rw [wordBytes, bytesOf16, hlow, hhigh, pow_zero, Nat.div_one]
  rfl

theorem tripleBytes_eq (n : Nat) :
    tripleBytes n = [BitVec.ofNat 8 (n / 65536), BitVec.ofNat 8 (n / 256), BitVec.ofNat 8 n] := by
  have hlow := extractLsb'_ofNat_byte (w := 24) (k := 0) (by decide) n
  have hmid := extractLsb'_ofNat_byte (w := 24) (k := 8) (by decide) n
  have hhigh := extractLsb'_ofNat_byte (w := 24) (k := 16) (by decide) n
  simp only [tripleBytes, hlow, hmid, hhigh, pow_zero, Nat.div_one]
  rfl

/-- The flags byte, flag by flag (R171). -/
theorem PeerEntry.flagsByte_eq (e : PeerEntry) :
    e.flagsByte = (if e.openPending then 1 else 0) ||| (if e.acceptPending then 2 else 0) ||| (if e.ackPending then 4 else 0)
      ||| (if e.grantPending then 8 else 0) ||| (if e.creditDue then 16 else 0) := by
  have hbits : ∀ a b c d f : Bool, (0 : BitVec 3) ++ bitOf f ++ bitOf d ++ bitOf c ++ bitOf b ++ bitOf a
      = ((if a then 1 else 0) ||| (if b then 2 else 0) ||| (if c then 4 else 0) ||| (if d then 8 else 0)
        ||| (if f then 16 else 0) : Byte) := by decide
  exact hbits e.openPending e.acceptPending e.ackPending e.grantPending e.creditDue

/-- A slot is FREE exactly where the model's test says so (R89). -/
theorem Txs.freeCount_eq (t : Txs) : t.freeCount = ((List.finRange 24).filter fun h => t.slot h == .free).length := by
  have hfree : ∀ x : Slot, x.isFree = (x == .free) := fun x => by cases x <;> rfl
  simp only [Txs.freeCount, hfree]
  rfl

/-- The table's entry of an address, and none above 30 (R24). -/
theorem stationOf_ofNat (p : Station) : stationOf (BitVec.ofNat 8 p.val).toNat = some p := by
  revert p
  decide

theorem stationOf_none {n : Nat} (h : 30 < n) : stationOf n = none := dif_neg (by omega)

/-- Settles O11: what each snapshot command answers. -/
theorem snapshotCommandsAnswerTheState : Obligations.SnapshotCommandsAnswerTheState := by
  intro s hs word flag free reserved uncommitted
  have hword : ∀ n, wordBytes n = word n := wordBytes_eq
  refine ⟨?_, fun address haddress => ?_, ?_, ?_⟩
  · intro p e
    have hjudged : judgeReadPeer [BitVec.ofNat 8 p.val] s = (s, ⟨.ok, e.resultBytes⟩) := by
      have hstation : stationOf (byteAt [BitVec.ofNat 8 p.val] 0).toNat = some p := stationOf_ofNat p
      rw [judgeReadPeer, hstation]
    refine hostCommand_leaves (exec_readPeer _ s) hs rfl ?_
    rw [hjudged]
    simp only [PeerEntry.resultBytes, hword, tripleBytes_eq, PeerEntry.flagsByte_eq]
    cases he : e.state <;> rfl
  · have hjudged : judgeReadPeer [address] s = (s, .bare .noSuch) := by
      have hstation : stationOf (byteAt [address] 0).toNat = none := stationOf_none haddress
      rw [judgeReadPeer, hstation]
    refine hostCommand_leaves (exec_readPeer address s) hs rfl ?_
    rw [hjudged]
    rfl
  · refine hostCommand_leaves (exec_readStatus s) hs rfl ?_
    have hfree : s.txs.freeCount = free := s.txs.freeCount_eq
    have hcommitted : s.uncommitted = uncommitted := rfl
    simp only [judgeReadStatus, State.statusBytes, hfree, hcommitted]
    cases s.control.opState <;> cases s.hmn.level <;> cases s.hpt.port.aborted <;> rfl
  · refine hostCommand_leaves (exec_readCounters s) hs rfl ?_
    have hcounters : s.hpt.counters.resultBytes = s.hpt.counters.toList.flatMap word := by
      rw [Counters.resultBytes, show wordBytes = word from funext hword]
    simp only [judgeReadCounters, hcounters]
    rfl

end Sys2Proof.Machine
end

section
/-! PROOFS. SENT_OK of a resend and of a GROUP, in both orders of HMN's report. -/

namespace Sys2Proof.Machine

/-- The record of a resend names a slot that is still its message (R65). -/
def State.ResendStands (v : State) (p : Station) (q : Seq) (c : Carried) (h : Handle) : Prop :=
  ∃ m marked, v.txs.slot h = .sent m q marked ∧ m.target = .data p ∧ (v.peer p).sessionCount = c.sessionCount

theorem State.resendStands_iff {v : State} {h : Handle} {p : Station} {q : Seq} {c : Carried} :
    v.resendStands h p q c = true ↔ v.ResendStands p q c h := by
  simp only [State.resendStands, State.ResendStands, Bool.and_eq_true, beq_iff_eq]
  cases v.txs.slot h <;> simp [Slot.isSentAs, and_assoc, and_comm]

/-- A resend whose record stands clears its slot's mark (R65, R108). -/
theorem State.resendOk_stands {v : State} {h : Handle} {p : Station} {q : Seq} {c : Carried}
    (hs : v.ResendStands p q c h) :
    (v.resendOk (some h) p q c).clearStaged
      = (v.count .retransmissions).outcomeLeft p c
          { v.txs with slots := v.txs.slots.set h ((v.txs.slot h).withMark false) } (v.peer p) := by
  have hstands : (v.count .retransmissions).resendStands h p q c = true := State.resendStands_iff.2 hs
  simp only [State.resendOk, hstands, if_true]
  rfl

/-- A resend whose record no longer stands changes no slot (R65). -/
theorem State.resendOk_fallen {v : State} {h : Option Handle} {p : Station} {q : Seq} {c : Carried}
    (hs : ∀ h', h = some h' → ¬v.ResendStands p q c h') :
    (v.resendOk h p q c).clearStaged = (v.count .retransmissions).outcomeLeft p c v.txs (v.peer p) := by
  cases h with
  | none => rfl
  | some h' =>
    have hstands : ¬(v.count .retransmissions).resendStands h' p q c = true := fun e =>
      hs h' rfl (State.resendStands_iff.1 e)
    simp only [State.resendOk, hstands]
    rfl

/-- A GROUP whose slot is still QUEUED completes SENT (R108, R123). -/
theorem Txs.sendStagedGroup_queued {t : Txs} {h : Handle} {m : Message} (hm : t.slot h = .queued m) :
    t.sendStagedGroup (some h)
      = { t with
          slots := t.slots.set h (.complete m none .sent)
          order := t.order.erase h
          completions := t.completions ++ [h] } := by
  have hqueued : (t.slot h).isQueued = true := by rw [hm]; rfl
  rw [Txs.sendStagedGroup, if_pos hqueued, t.complete_open .sent (Slot.isOpen_of_isQueued hqueued), hm]
  rfl

/-- A GROUP with no QUEUED slot leaves every slot (R108). -/
theorem Txs.sendStagedGroup_fallen {t : Txs} {h : Option Handle} (hm : ∀ h' m, h = some h' → t.slot h' ≠ .queued m) :
    t.sendStagedGroup h = t := by
  cases h with
  | none => rfl
  | some h' =>
    have hqueued : ¬(t.slot h').isQueued = true := fun e => by
      cases hx : t.slot h' with
      | queued m => exact hm h' m rfl hx
      | _ => rw [hx] at e; cases e
    rw [Txs.sendStagedGroup, if_neg hqueued]

/-- Settles O29: what SENT_OK of a resend and of a GROUP does, in both orders of HMN's report. -/
theorem resendAndGroupOutcome : Obligations.ResendAndGroupOutcome := by
  constructor
  · intro s h p q c hs stands done result
    have hresult : ∀ v w, result v w → w = (v.resendOk h p q c).clearStaged := fun v w ⟨hstands, hfallen⟩ => by
      by_cases hv : ∃ h', h = some h' ∧ stands v h'
      · obtain ⟨h', rfl, hv⟩ := hv
        rw [hstands h' rfl hv, State.resendOk_stands hv]
        rfl
      · have hno : ∀ h', h = some h' → ¬stands v h' := fun h' hh hv' => hv ⟨h', hh, hv'⟩
        rw [hfallen hno, State.resendOk_fallen hno]
        rfl
    obtain ⟨hscore, hstaging⟩ := hs.leaves (done := fun v => (v.resendOk h p q c).clearStaged) fun v hv => by
      rw [State.takeSentOk, hv]
    exact ⟨fun w hw => hresult _ w hw ▸ hscore, fun w hw => hresult _ w hw ▸ hstaging⟩
  · intro s h hs result
    have hresult : ∀ v w, result v w → w = (v.onTxs (Txs.sendStagedGroup h)).clearStaged :=
      fun v w ⟨hqueued, hfallen⟩ => by
        by_cases hv : ∃ h' m, h = some h' ∧ v.txs.slot h' = .queued m
        · obtain ⟨h', m, rfl, hv⟩ := hv
          rw [hqueued h' m rfl hv, State.onTxs, Txs.sendStagedGroup_queued hv]
          rfl
        · have hno : ∀ h' m, h = some h' → v.txs.slot h' ≠ .queued m := fun h' m hh hm => hv ⟨h', m, hh, hm⟩
          rw [hfallen hno, State.onTxs, Txs.sendStagedGroup_fallen hno]
          rfl
    obtain ⟨hscore, hstaging⟩ := hs.leaves (done := fun v => (v.onTxs (Txs.sendStagedGroup h)).clearStaged) fun v hv => by
      rw [State.takeSentOk, hv]
    exact ⟨fun w hw => hresult _ w hw ▸ hscore, fun w hw => hresult _ w hw ▸ hstaging⟩

end Sys2Proof.Machine
end

section
/-! PROOFS. Ack and limit processing: both judged together, then applied to the slots and the send window. -/

namespace Sys2Proof.Machine

/-- A limit is taken unless it lies behind the one held (R53). -/
theorem PeerEntry.takeLimit_eq (a l : Seq) (e : PeerEntry) :
    e.takeLimit a l
      = { e with heldLimit := if (e.heldLimit - a).toNat ≤ (l - a).toNat then l else e.heldLimit } := by
  unfold PeerEntry.takeLimit
  split <;> rfl

/-! ### The judgement, and what a valid ack and limit leave (R49, R50, R51, R53) -/

section
variable {s : State} {p : Station} {a l : Seq}

/-- Ack and limit are judged together (R50, R53). -/
theorem State.ackLimitValid_iff : ((s.peer p).ackValid a && limitValid a l) = true
    ↔ (a - (s.peer p).oldestUnacked).toNat ≤ ((s.peer p).nextTxSeq - (s.peer p).oldestUnacked).toNat
      ∧ (l - a).toNat ≤ 15 := by
  simp only [PeerEntry.ackValid, limitValid, Bool.and_eq_true, decide_eq_true_eq]

/-- An ack that equals oldestUnacked is no progress (R51). -/
theorem State.takeAck_same (ha : a = (s.peer p).oldestUnacked) : s.takeAck p a = s := by
  simp only [State.takeAck, if_pos ha]

/-- Progress completes the slots up to the ack, and the entry takes ack, ack timer and limit (R51, R53). -/
theorem State.takeAck_progress (ha : a ≠ (s.peer p).oldestUnacked) {done : Txs}
    (hdone : done = s.txs.completeAll .delivered
      (s.txs.sentInSequence p (s.peer p).oldestUnacked (a - (s.peer p).oldestUnacked).toNat)) :
    (s.takeAck p a).onPeer p (PeerEntry.takeLimit a l) = (s.onTxs fun _ => done).onPeer p fun e =>
      { e with
        oldestUnacked := a
        retryCount := 0
        ackTimer := if done.anySent p then s.cfg.ackTimeout else 0
        heldLimit := if (e.heldLimit - a).toNat ≤ (l - a).toNat then l else e.heldLimit } := by
  subst hdone
  simp only [State.takeAck, if_neg ha]
  rw [State.onPeer_onPeer]
  exact State.onPeer_congr (PeerEntry.takeLimit_eq a l _)

end

/-! ### What stays outstanding (R51) -/

/-- The submission order list holds every SENT slot (R91). -/
theorem Txs.SlotLaw.anySent_iff {t : Txs} (ht : t.SlotLaw) (p : Station) :
    t.anySent p = true ↔ ∃ h, (t.slot h).isSentTo p = true := by
  rw [Txs.anySent, List.any_eq_true]
  exact ⟨fun ⟨h, _, hs⟩ => ⟨h, hs⟩, fun ⟨h, hs⟩ => ⟨h, ht.mem_order (Slot.isOpen_of_isSentTo hs), hs⟩⟩

/-- What a peer still has SENT after a run of completions (R51). -/
theorem Txs.SlotLaw.anySent_completeAll {t : Txs} (ht : t.SlotLaw) (p : Station) (o : SlotOutcome) (hs : List Handle) :
    (t.completeAll o hs).anySent p = true ↔ ∃ h, (t.slot h).isSentTo p = true ∧ h ∉ hs := by
  rw [(ht.completeAll o hs).anySent_iff p]
  refine exists_congr fun h => ?_
  rw [Txs.slot_completeAll]
  by_cases hm : h ∈ hs <;> simp [hm]

/-- Settles O36: stale where either is not valid, and otherwise the completions, the window and the timer. -/
theorem ackAndLimitAreJudgedThenApplied : Obligations.AckAndLimitAreJudgedThenApplied := by
  intro s p a l hs e valid held acked
  have htaken (hv : valid) : s.takeAckLimit p a l = some ((s.takeAck p a).onPeer p (PeerEntry.takeLimit a l)) :=
    if_pos (State.ackLimitValid_iff.2 hv)
  refine ⟨fun hv => if_neg fun h => hv (State.ackLimitValid_iff.1 h), fun hv ha => ?_, fun hv ha => ?_⟩
  · have hentry := PeerEntry.takeLimit_eq a l e
    rw [htaken hv, State.takeAck_same ha, ← hentry]
    rfl
  · have hopen : ∀ h ∈ acked, (s.txs.slot h).isOpen = true := fun h hm => by
      obtain ⟨k, -, -, hsent⟩ := Txs.mem_sentInSequence.1 hm
      exact Slot.isOpen_of_isSentAs hsent
    have hnodup : acked.Nodup := Txs.sentInSequence_nodup hs.1 p e.oldestUnacked (Nat.le_of_lt (BitVec.isLt _))
    obtain ⟨hslot, hcompletions, horder, hstaged, hpresented, hpointer⟩ :=
      s.txs.completeAll_open .delivered acked hnodup hs.1 hopen
    have hleft := if_congr (hs.anySent_completeAll p .delivered acked) (Eq.refl s.cfg.ackTimeout) (Eq.refl 0)
    have happlied := State.takeAck_progress (l := l) ha (done := s.txs.completeAll .delivered acked) rfl
    refine ⟨_, (htaken hv).trans (congrArg some happlied), hcompletions, horder, fun h m q marked hm hh => ?_,
      fun h hh => ?_, ?_⟩
    · exact (hslot h).trans (by rw [if_pos hh, hm]; rfl)
    · exact (hslot h).trans (if_neg hh)
    · have htxs := Txs.eta_lists hstaged hpresented hpointer
      rw [hleft]
      conv_lhs => rw [htxs]
      rfl

end Sys2Proof.Machine
end

section
/-! PROOFS. Grants: the rotation serves the first eligible peer, and an attempt ends with nothing left to grant. -/

namespace Sys2Proof.Machine

/-! ### The rotation (R78, R103) -/

section
variable (ptr : Station)

theorem rotationFrom_length : (rotationFrom ptr).length = 31 := by simp [rotationFrom, stations]

theorem rotationFrom_getElem {i : Nat} (hi : i < (rotationFrom ptr).length) :
    (rotationFrom ptr)[i] = ptr + 1 + ⟨i, rotationFrom_length ptr ▸ hi⟩ := by
  simp [rotationFrom, stations]

/-- The place of an address is where the rotation comes to it. -/
theorem placeAfter_getElem {i : Nat} (hi : i < (rotationFrom ptr).length) :
    placeAfter ptr (rotationFrom ptr)[i] = i := by
  rw [rotationFrom_getElem, placeAfter, sub_sub, add_sub_cancel_left]

theorem exists_getElem_rotationFrom (p : Station) :
    ∃ h : placeAfter ptr p < (rotationFrom ptr).length, (rotationFrom ptr)[placeAfter ptr p] = p := by
  obtain ⟨i, hi, rfl⟩ := List.getElem_of_mem (mem_rotationFrom ptr p)
  simp only [placeAfter_getElem]
  exact ⟨hi, trivial⟩

/-- The search takes the address that qualifies and lies least far after the pointer. -/
theorem find?_rotationFrom {p : Station} {f : Station → Bool} :
    (rotationFrom ptr).find? f = some p
      ↔ f p = true ∧ ∀ q, f q = true → placeAfter ptr p ≤ placeAfter ptr q := by
  rw [List.find?_eq_some_iff_getElem]
  refine and_congr_right fun _ => ⟨?_, fun hleast => ?_⟩
  · rintro ⟨i, hi, rfl, hbefore⟩ q hq
    rw [placeAfter_getElem]
    by_contra hlt
    obtain ⟨h, hat⟩ := exists_getElem_rotationFrom ptr q
    have hnot := hbefore (placeAfter ptr q) (by omega)
    rw [hat, hq] at hnot
    cases hnot
  · obtain ⟨h, hat⟩ := exists_getElem_rotationFrom ptr p
    refine ⟨_, h, hat, fun j hj => ?_⟩
    by_contra hq
    have hle := hleast _ (by simpa using hq)
    rw [placeAfter_getElem] at hle
    omega

end

/-! ### One grant (R77, R78) -/

theorem State.eligible_iff {s : State} {p : Station} :
    s.eligible p = true
      ↔ s.control.opState = .running ∧ ((s.peer p).state = .syncing ∨ (s.peer p).state = .linked)
        ∧ (s.peer p).reservation < s.cfg.quota := by
  simp only [State.eligible, State.isRunning, Bool.and_eq_true, beq_iff_eq, PeerEntry.isLive_iff, decide_eq_true_eq,
    and_assoc]

/-- The next grant goes to the first eligible peer of the rotation, while a record is uncommitted (R78). -/
theorem State.nextGrant_iff {s : State} {p : Station} :
    s.nextGrant = some p
      ↔ 0 < s.uncommitted ∧ s.eligible p = true
        ∧ ∀ q, s.eligible q = true → placeAfter s.mst.rotation p ≤ placeAfter s.mst.rotation q := by
  rw [State.nextGrant, ← find?_rotationFrom]
  split
  next h => simp [h]
  next h => exact ⟨fun hp => ⟨Nat.pos_of_ne_zero h, hp⟩, And.right⟩

/-- The entry after one grant, field by field: a grant not yet pending starts the ack delay (R59, R78). -/
theorem PeerEntry.granted_starting (d : Nat) (e : PeerEntry) :
    e.granted d = { e with
      grantLimit := e.grantLimit + 1
      grantPending := true
      creditDue := e.creditDue || decide ((e.grantPending = false ∧ e.ackDelayTimer = 0) ∧ d = 0)
      ackDelayTimer := if e.grantPending = false ∧ e.ackDelayTimer = 0 then d else e.ackDelayTimer } := by
  rcases PeerEntry.setGrantPending_cases d { e with grantLimit := e.grantLimit + 1 }
    with ⟨hp, h⟩ | ⟨hp, ht, h⟩ | ⟨hp, ht, hd, h⟩ | ⟨hp, ht, hd, h⟩ <;> rw [PeerEntry.granted, h] <;>
    simp_all

theorem PeerEntry.reservation_granted (d : Nat) {e : PeerEntry} (h : e.reservation < 63) :
    (e.granted d).reservation = e.reservation + 1 := by
  have hlimit : (e.granted d).grantLimit = e.grantLimit + 1 := by rw [PeerEntry.granted_eq]
  have hexpected : (e.granted d).expected = e.expected := by rw [PeerEntry.granted_eq]
  simp only [PeerEntry.reservation, hlimit, hexpected] at h ⊢
  bv_omega

theorem State.peer_grantTo (s : State) (p q : Station) :
    (s.grantTo p).peer q = if p = q then (s.peer p).granted s.cfg.ackDelay else s.peer q :=
  s.peer_onPeer p q _

/-! ### What is reserved and what is uncommitted (R73) -/

theorem State.reserved_eq_sum (s : State) : s.pen.reserved = ∑ p : Station, (s.peer p).reservation := by
  have hlist : s.pen.peers.toList = List.ofFn s.peer :=
    List.ext_getElem (by rw [Vector.length_toList, List.length_ofFn]) fun i _ _ => by
      rw [List.getElem_ofFn, Vector.getElem_toList]
      rfl
  rw [Pen.reserved, hlist, List.map_ofFn, List.sum_ofFn]
  rfl

/-- A change of one entry moves ΣR by what it moves that entry's reservation. -/
theorem State.reserved_onPeer (s : State) (p : Station) (f : PeerEntry → PeerEntry) :
    (s.onPeer p f).pen.reserved + (s.peer p).reservation = s.pen.reserved + (f (s.peer p)).reservation := by
  have hrest : ∑ q ∈ Finset.univ.erase p, ((s.onPeer p f).peer q).reservation
      = ∑ q ∈ Finset.univ.erase p, (s.peer q).reservation :=
    Finset.sum_congr rfl fun q hq => by rw [s.peer_onPeer_ne (Finset.ne_of_mem_erase hq).symm]
  rw [State.reserved_eq_sum, State.reserved_eq_sum, ← Finset.add_sum_erase _ _ (Finset.mem_univ p),
    ← Finset.add_sum_erase Finset.univ (fun q => (s.peer q).reservation) (Finset.mem_univ p), hrest,
    State.peer_onPeer_self]
  omega

section
variable {s : State} {p : Station} (hq : s.cfg.quota ≤ 15) (hp : s.nextGrant = some p)
include hq hp

theorem State.reservation_grantTo :
    ((s.peer p).granted s.cfg.ackDelay).reservation = (s.peer p).reservation + 1 := by
  obtain ⟨-, -, hroom⟩ := State.eligible_iff.1 (State.nextGrant_some hp).2
  exact PeerEntry.reservation_granted _ (by omega)

/-- A grant takes one record from the uncommitted ones and reserves it (R73, R78). -/
theorem State.commitment_grantTo :
    (s.grantTo p).uncommitted + 1 = s.uncommitted ∧ (s.grantTo p).pen.reserved = s.pen.reserved + 1 := by
  have hmoved := s.reserved_onPeer p (PeerEntry.granted s.cfg.ackDelay)
  have hreserved : (s.grantTo p).pen.reserved = s.pen.reserved + 1 := by
    have hgrant : (s.grantTo p).pen = (s.onPeer p (PeerEntry.granted s.cfg.ackDelay)).pen := rfl
    rw [State.reservation_grantTo hq hp] at hmoved
    rw [hgrant]
    omega
  refine ⟨?_, hreserved⟩
  have hpos := (State.nextGrant_some hp).1
  have hafter : (s.grantTo p).uncommitted
      = Config.storeSize - (s.mst.stored + (s.grantTo p).pen.reserved + s.headroomOpen) := rfl
  rw [hafter, hreserved]
  unfold State.uncommitted at hpos ⊢
  omega

end

/-! ### A grant attempt (R78, R79) -/

/-- As many rounds as there are uncommitted records leave no grant to make (R78). -/
theorem grantLoop_ends : ∀ (n : Nat) (s : State), s.cfg.quota ≤ 15 → s.uncommitted ≤ n → (grantLoop n s).nextGrant = none
  | 0, s, _, hn => if_pos (Nat.le_zero.1 hn)
  | n + 1, s, hq, hn => by
    unfold grantLoop
    split
    next h => exact h
    next p hp =>
      have htaken := (State.commitment_grantTo hq hp).1
      exact grantLoop_ends n _ hq (by omega)

/-- What any run of grants from `s` keeps, in the state `t` it has come to (R73, R77, R78). -/
structure State.GrantsMade (s t : State) : Prop where
  frame : t = { s with
    mst := { s.mst with rotation := t.mst.rotation }
    pen := { s.pen with peers := t.pen.peers } }
  conserved : t.uncommitted + t.pen.reserved = s.uncommitted + s.pen.reserved
  grown : ∀ p, (s.peer p).reservation ≤ (t.peer p).reservation
  bounded : ∀ p, (t.peer p).reservation ≤ max (s.peer p).reservation s.cfg.quota
  passedOver : ∀ p, s.eligible p = false → t.peer p = s.peer p
  grantFields : ∀ p, t.peer p =
    { s.peer p with
      grantLimit := (t.peer p).grantLimit
      grantPending := (t.peer p).grantPending
      creditDue := (t.peer p).creditDue
      ackDelayTimer := (t.peer p).ackDelayTimer }

theorem State.GrantsMade.refl (s : State) : s.GrantsMade s :=
  ⟨rfl, rfl, fun _ => le_rfl, fun _ => le_max_left _ _, fun _ _ => rfl, fun _ => rfl⟩

theorem State.GrantsMade.control {s t : State} (h : s.GrantsMade t) : t.control = s.control := by rw [h.frame]

/-- One more grant. -/
theorem State.GrantsMade.grantTo {s t : State} (h : s.GrantsMade t) (hq : s.cfg.quota ≤ 15) {p : Station}
    (hp : t.nextGrant = some p) : s.GrantsMade (t.grantTo p) := by
  have hcfg : t.cfg = s.cfg := by rw [State.cfg, State.cfg, h.control]
  have hquota : t.cfg.quota ≤ 15 := hcfg ▸ hq
  obtain ⟨hrunning, hlive, hroom⟩ := State.eligible_iff.1 (State.nextGrant_some hp).2
  have hgranted := State.reservation_grantTo hquota hp
  obtain ⟨huncommitted, hreserved⟩ := State.commitment_grantTo hquota hp
  have heligible : s.eligible p = true := by
    by_contra hnot
    rw [h.control] at hrunning
    rw [h.passedOver p (by simpa using hnot)] at hlive hroom
    exact hnot (State.eligible_iff.2 ⟨hrunning, hlive, hcfg ▸ hroom⟩)
  refine ⟨?_, ?_, fun q => ?_, fun q => ?_, fun q hno => ?_, fun q => ?_⟩
  · rw [State.grantTo_eq, h.frame]
  · have hbefore := h.conserved
    omega
  · rw [t.peer_grantTo]
    have hbefore := h.grown q
    split
    next hpq =>
      subst hpq
      omega
    next => exact hbefore
  · rw [t.peer_grantTo]
    split
    next hpq =>
      subst hpq
      rw [hcfg] at hroom
      omega
    next => exact h.bounded q
  · rw [t.peer_grantTo, if_neg (by rintro rfl; simp [heligible] at hno)]
    exact h.passedOver q hno
  · rw [t.peer_grantTo]
    split
    next hpq =>
      subst hpq
      rw [PeerEntry.granted_eq, h.grantFields p]
    next => exact h.grantFields q

theorem State.grantsMade_grantAttempt {s : State} (hq : s.cfg.quota ≤ 15) : s.GrantsMade s.grantAttempt :=
  grantLoop_induction (P := s.GrantsMade) (fun _ _ h hp => h.grantTo hq hp) _ s (.refl s)

/-- Outside RUNNING no peer is eligible, so an attempt makes no grant (R77). -/
theorem State.grantAttempt_notRunning {s : State} (h : s.control.opState ≠ .running) : s.grantAttempt = s :=
  grantLoop_induction (P := (· = s))
    (fun _ _ ht hp => absurd (State.eligible_iff.1 (State.nextGrant_some hp).2).1 (ht ▸ h)) _ s rfl

/-- Settles O37: the commitment as it is defined, the rotation's choice, one grant, and the attempt. -/
theorem grantsServeEligiblePeersInRotation : Obligations.GrantsServeEligiblePeersInRotation := by
  refine ⟨fun s => rfl, fun s => ⟨fun p => ?_, fun p => ?_⟩, fun s hq => ?_⟩
  · rw [State.nextGrant_iff]
    simp only [State.eligible_iff]
    rfl
  · rw [State.grantTo_eq, PeerEntry.granted_starting]
  · have hmade := State.grantsMade_grantAttempt hq
    have hended := grantLoop_ends Config.storeSize s hq (Nat.sub_le _ _)
    refine ⟨?_, hmade.conserved, hmade.grown, hmade.bounded, hmade.passedOver, hmade.grantFields, hmade.frame,
      State.grantAttempt_notRunning⟩
    exact (State.nextGrant_none hended).imp id fun hnone p => hnone p (mem_rotationFrom _ p)

end Sys2Proof.Machine
end

section
/-! PROOFS. The carrying rule, and that every step keeps an uncarried ack or grant due. -/

namespace Sys2Proof.Machine

/-! ### The law of one entry (R59, R61) -/

/-- The carrying rule, field by field (R61). -/
theorem PeerEntry.carry_eq (c : Carried) (e : PeerEntry) :
    e.carry c = { e with
      ackPending := decide (e.ackPending = true ∧ c.ack ≠ e.expected)
      grantPending := decide (e.grantPending = true ∧ c.limit ≠ e.grantLimit)
      creditDue :=
        if (e.ackPending = true ∧ c.ack ≠ e.expected) ∨ (e.grantPending = true ∧ c.limit ≠ e.grantLimit) then e.creditDue
        else false
      ackDelayTimer :=
        if (e.ackPending = true ∧ c.ack ≠ e.expected) ∨ (e.grantPending = true ∧ c.limit ≠ e.grantLimit)
        then e.ackDelayTimer else 0 } := by
  have hack : (e.ackPending && c.ack != e.expected) = decide (e.ackPending = true ∧ c.ack ≠ e.expected) := by
    simp [Bool.decide_and, bne, BEq.beq]
  have hgrant : (e.grantPending && c.limit != e.grantLimit)
      = decide (e.grantPending = true ∧ c.limit ≠ e.grantLimit) := by
    simp [Bool.decide_and, bne, BEq.beq]
  simp only [PeerEntry.carry, hack, hgrant, Bool.or_eq_true, decide_eq_true_eq]
  split
  next => rfl
  next h =>
    rw [not_or] at h
    simp only [h.1, h.2, decide_false]

section
variable {e : PeerEntry} (h : e.CarryLaw)
include h

/-- What is left pending was pending before, so its delay still runs or its CREDIT is still due (R61). -/
theorem PeerEntry.CarryLaw.carry (c : Carried) : (e.carry c).CarryLaw := by
  unfold PeerEntry.CarryLaw at h
  rw [PeerEntry.carry_eq]
  simp only [PeerEntry.CarryLaw, decide_eq_true_eq]
  split
  next hleft => exact iff_of_true hleft (h.1 (hleft.imp And.left And.left))
  next hleft => simp [hleft]

theorem PeerEntry.CarryLaw.tick (held : Bool) : (e.tick held).CarryLaw := by
  have htimer : tickTimer e.ackDelayTimer ≠ 0 ↔ e.ackDelayTimer ≠ 0 := not_congr tickTimer_eq_zero
  simpa only [PeerEntry.CarryLaw, PeerEntry.tick, htimer] using h

/-- An ack-delay timer runs only while something is pending, and its expiry makes the CREDIT due (R59). -/
theorem PeerEntry.CarryLaw.ackDelayed (ht : e.ackDelayTimer ≠ 0) :
    ({ e with creditDue := true, ackDelayTimer := 0 } : PeerEntry).CarryLaw :=
  iff_of_true (h.2 (.inl ht)) (.inr rfl)

theorem PeerEntry.CarryLaw.controlDone (k : ControlKind) (c : Carried) : (e.controlDone k c).CarryLaw := by
  unfold PeerEntry.controlDone
  split
  · cases k <;> exact h
  · exact h

theorem PeerEntry.CarryLaw.acked (a : Seq) (ackTimer : Nat) : (e.acked a ackTimer).CarryLaw := by
  unfold PeerEntry.acked
  split <;> exact h

theorem PeerEntry.CarryLaw.takeLimit (a l : Seq) : (e.takeLimit a l).CarryLaw := by
  unfold PeerEntry.takeLimit
  split <;> exact h

/-- Setting ackPending starts the delay or makes the CREDIT due (R59). -/
theorem PeerEntry.CarryLaw.setAckPending (d : Nat) : (e.setAckPending d).CarryLaw := by
  rcases e.setAckPending_cases d with ⟨-, hset⟩ | ⟨-, ht, hset⟩ | ⟨-, -, -, hset⟩ | ⟨-, -, hd, hset⟩ <;> rw [hset]
  · exact h
  · exact iff_of_true (.inl rfl) (.inl ht)
  · exact iff_of_true (.inl rfl) (.inr rfl)
  · exact iff_of_true (.inl rfl) (.inl hd)

/-- Setting grantPending starts the delay or makes the CREDIT due (R59). -/
theorem PeerEntry.CarryLaw.setGrantPending (d : Nat) : (e.setGrantPending d).CarryLaw := by
  rcases e.setGrantPending_cases d with ⟨-, hset⟩ | ⟨-, ht, hset⟩ | ⟨-, -, -, hset⟩ | ⟨-, -, hd, hset⟩ <;> rw [hset]
  · exact h
  · exact iff_of_true (.inr rfl) (.inl ht)
  · exact iff_of_true (.inr rfl) (.inr rfl)
  · exact iff_of_true (.inr rfl) (.inl hd)

theorem PeerEntry.CarryLaw.granted (d : Nat) : (e.granted d).CarryLaw :=
  PeerEntry.CarryLaw.setGrantPending (e := { e with grantLimit := e.grantLimit + 1 }) h d

end

/-- An entry with nothing pending, no delay running and no CREDIT due. -/
theorem PeerEntry.carryLaw_of_clear {e : PeerEntry} (hack : e.ackPending = false) (hgrant : e.grantPending = false)
    (hdue : e.creditDue = false) (htimer : e.ackDelayTimer = 0) : e.CarryLaw := by
  simp [PeerEntry.CarryLaw, hack, hgrant, hdue, htimer]

/-- A restart clears what was pending; the reservation it keeps is a grant that is due anew (R30). -/
theorem PeerEntry.carryLaw_restarted (d : Nat) (e : PeerEntry) : (e.restarted d).CarryLaw := by
  simp only [PeerEntry.restarted]
  split
  · exact PeerEntry.carryLaw_of_clear rfl rfl rfl rfl
  · exact PeerEntry.CarryLaw.setGrantPending (PeerEntry.carryLaw_of_clear rfl rfl rfl rfl) d

theorem PeerEntry.CarryLaw.withdrawn {e : PeerEntry} (h : e.CarryLaw) : e.withdrawn.CarryLaw := by
  unfold PeerEntry.withdrawn
  split
  · exact PeerEntry.carryLaw_of_clear rfl rfl rfl rfl
  · split <;> exact h

/-! ### The law of every entry -/

/-- What no entry has carried yet is due for every entry. -/
def State.CarryLaws (s : State) : Prop := ∀ p, (s.peer p).CarryLaw

section
variable {s t : State}

/-- After a reset nothing is pending (R26). -/
theorem State.carryLaws_initial (h : s.pen.peers = initialPeers s.control.ownAddr) : s.CarryLaws := by
  intro p
  rcases State.peer_initial h p with hp | hp <;> rw [hp] <;> exact PeerEntry.carryLaw_of_clear rfl rfl rfl rfl

variable (hs : s.CarryLaws)
include hs

theorem State.CarryLaws.one (p : Station) (hpeer : ∀ q, p ≠ q → t.peer q = s.peer q) (hp : (t.peer p).CarryLaw) :
    t.CarryLaws := fun q => by
  by_cases hq : p = q
  · exact hq ▸ hp
  · exact hpeer q hq ▸ hs q

theorem State.CarryLaws.onPeer {p : Station} {f : PeerEntry → PeerEntry} (hf : (f (s.peer p)).CarryLaw) :
    (s.onPeer p f).CarryLaws :=
  hs.one p (fun _ hq => s.peer_onPeer_ne hq f) ((s.peer_onPeer_self p f).symm ▸ hf)

theorem State.CarryLaws.carry (p : Station) (c : Carried) : (s.carry p c).CarryLaws :=
  hs.onPeer (PeerEntry.CarryLaw.carry (hs p) c)

theorem State.CarryLaws.controlOk (k : ControlKind) (p : Station) (c : Carried) : (s.controlOk k p c).CarryLaws :=
  (hs.onPeer (PeerEntry.CarryLaw.controlDone (hs p) k c)).carry p c

theorem State.CarryLaws.firstSendOk (h : Option Handle) (p : Station) (q : Seq) (c : Carried) :
    (s.firstSendOk h p q c).CarryLaws := by
  refine State.CarryLaws.carry ?_ p c
  split
  · exact hs
  · split
    · exact State.CarryLaws.onPeer (s := s.onTxs _) hs (hs p)
    · exact hs

theorem State.CarryLaws.resendOk (h : Option Handle) (p : Station) (q : Seq) (c : Carried) :
    (s.resendOk h p q c).CarryLaws := by
  refine State.CarryLaws.carry ?_ p c
  split
  · exact hs
  · split <;> exact hs

theorem State.CarryLaws.restartNoticed (p : Station) : (s.restartNoticed p).CarryLaws := fun q => by
  rw [State.restartNoticed_peer]
  split
  · exact PeerEntry.carryLaw_restarted _ _
  · exact hs q

theorem State.CarryLaws.resynchronised (p : Station) (epoch : Epoch) : (s.resynchronised p epoch).CarryLaws := by
  have hbefore : (if (s.peer p).isLive then s.restartNoticed p else s).CarryLaws := by
    split
    · exact hs.restartNoticed p
    · exact hs
  exact hbefore.onPeer (hbefore p)

theorem State.CarryLaws.opened (p : Station) (epoch : Epoch) (limit : Seq) : (s.opened p epoch limit).CarryLaws :=
  (hs.restartNoticed p).onPeer (hs.restartNoticed p p)

theorem State.CarryLaws.sessionEnd (p : Station) (st : AssocState) (epoch : Epoch) :
    (s.sessionEnd p st epoch).CarryLaws :=
  State.CarryLaws.onPeer (s := s.onTxs _) hs (PeerEntry.carryLaw_of_clear rfl rfl rfl rfl)

theorem State.CarryLaws.takeAckLimit {p : Station} {a l : Seq} (ht : s.takeAckLimit p a l = some t) : t.CarryLaws := by
  have h := State.takesAckLimit ht
  refine hs.one p h.others ?_
  rw [h.entry]
  exact PeerEntry.CarryLaw.takeLimit (PeerEntry.CarryLaw.acked (hs p) a _) a l

theorem State.CarryLaws.takeSeq (p : Station) (q : Seq) (payload : List Byte) : (s.takeSeq p q payload).CarryLaws := by
  have hcounted : ∀ c, ((s.count c).onPeer p (PeerEntry.setAckPending s.cfg.ackDelay)).CarryLaws := fun c =>
    State.CarryLaws.onPeer (s := s.count c) hs (PeerEntry.CarryLaw.setAckPending (hs p) s.cfg.ackDelay)
  unfold State.takeSeq
  split
  · exact State.CarryLaws.onPeer (s := s.onMst _) hs
      (PeerEntry.CarryLaw.setAckPending (e := { s.peer p with expected := (s.peer p).expected + 1 }) (hs p) s.cfg.ackDelay)
  · exact hs
  · exact hcounted _
  · exact hcounted _

theorem State.CarryLaws.withdrawAll : s.withdrawAll.CarryLaws := fun p => by
  rw [State.peer_withdrawAll]
  exact PeerEntry.CarryLaw.withdrawn (hs p)

/-- Every change keeps what was not yet carried due. -/
theorem State.CarryLaws.change (h : Change s t) : t.CarryLaws := by
  have hcleared : ∀ {u : State}, u.CarryLaws → u.clearStaged.CarryLaws := id
  cases h
  case tick => exact fun p => s.peer_tick p ▸ PeerEntry.CarryLaw.tick (hs p) s.timersHeld
  case helloSent e _ =>
    refine hcleared ?_
    unfold State.helloOk
    split <;> exact hs
  case controlSent k p c _ => exact hcleared (hs.controlOk k p c)
  case firstSent h p q c _ => exact hcleared (hs.firstSendOk h p q c)
  case resent h p q c _ => exact hcleared (hs.resendOk h p q c)
  case failed =>
    rw [State.takeFailure_eq]
    exact hs
  case group =>
    unfold State.groupReceived
    split
    · exact hs
    · split <;> exact hs
  case grant p _ => exact hs.onPeer (PeerEntry.CarryLaw.granted (hs p) s.cfg.ackDelay)
  case refresh p _ _ => exact hs.onPeer (hs p)
  case resynchronise p epoch _ _ _ => exact hs.resynchronised p epoch
  case openLink p epoch limit _ _ _ _ => exact hs.opened p epoch limit
  case leave p _ => exact hs.sessionEnd p .absent 0
  case lose p _ => exact hs.sessionEnd p .lost _
  case forget p _ => exact hs.onPeer (hs p)
  case ackLimit ht => exact hs.takeAckLimit ht
  case accept p _ _ _ _ ht => exact (hs.takeAckLimit ht).onPeer (hs.takeAckLimit ht p)
  case seq p q payload _ => exact hs.takeSeq p q payload
  case joinRetry p _ _ => exact hs.onPeer (hs p)
  case ackRetry p _ _ _ => exact State.CarryLaws.onPeer (s := s.onTxs _) hs (hs p)
  case ackDelay p _ ht => exact hs.onPeer (PeerEntry.CarryLaw.ackDelayed (hs p) ht)
  case detach =>
    intro p
    rw [s.peer_enterDetached]
    exact hs.withdrawAll p
  case beginLeaving =>
    have hcancelled : s.unstagedCancelled.CarryLaws := hs
    intro p
    rw [s.peer_beginLeaving]
    exact hcancelled.withdrawAll p
  case endLeaving timedOut _ _ => cases timedOut <;> exact hs
  case softReset => exact State.carryLaws_initial rfl
  all_goals exact hs

end

theorem stepInvariant_carryLaws : StepInvariant (fun _ => True) State.CarryLaws where
  queues _ _ := id
  reset _ _ _ _ _ := State.carryLaws_initial rfl
  stage {s} _ hs _ := by
    rcases s.stage_cases with h | ⟨c, u, f, r, -, -, h⟩ <;> rw [h] <;> exact hs
  change h hs := hs.change h

/-- Settles O56: the carrying rule, and its law kept by every change that an event is made of. -/
theorem uncarriedAcksAndGrantsStayDue : Obligations.UncarriedAcksAndGrantsStayDue :=
  ⟨fun e c => e.carry_eq c, fun _ _ hs ht => stepInvariant_carryLaws.step ht (fun _ _ => trivial) hs⟩

end Sys2Proof.Machine
end

section
/-! PROOFS. The law of the message store: every change keeps its commitment within 48 records (R73, R74). -/

namespace Sys2Proof.Machine

/-! ### What one operation makes of an entry's reservation -/

/-- An entry that reserves no more than another did, and nothing once its session is gone (R74). -/
structure PeerEntry.ReservesWithin (e e' : PeerEntry) : Prop where
  reservation_le : e'.reservation ≤ e.reservation
  at_rest : e'.isLive = false → e.isLive = false ∨ e'.reservation = 0

section
variable {e e' : PeerEntry}

theorem PeerEntry.ReservesWithin.rfl : e.ReservesWithin e := ⟨le_rfl, .inl⟩

theorem PeerEntry.ReservesWithin.trans {e'' : PeerEntry} (h : e.ReservesWithin e') (h' : e'.ReservesWithin e'') :
    e.ReservesWithin e'' where
  reservation_le := h'.reservation_le.trans h.reservation_le
  at_rest hrest := by
    have hle := h'.reservation_le
    rcases h'.at_rest hrest with hrest' | hzero
    · exact (h.at_rest hrest').imp_right fun hzero => by omega
    · exact .inr hzero

/-- An operation that leaves the grant limit, the expected seq and the association state leaves the reservation. -/
theorem PeerEntry.ReservesWithin.of_eq (hlimit : e'.grantLimit = e.grantLimit) (hexpected : e'.expected = e.expected)
    (hstate : e'.state = e.state) : e.ReservesWithin e' where
  reservation_le := by rw [PeerEntry.reservation, hlimit, hexpected, PeerEntry.reservation]
  at_rest hrest := .inl (by rwa [PeerEntry.isLive, hstate] at hrest)

/-- A live entry may hold the reservation it comes from. -/
theorem PeerEntry.ReservesWithin.of_live (hlive : e'.isLive = true) (hle : e'.reservation ≤ e.reservation) :
    e.ReservesWithin e' := ⟨hle, fun hrest => by simp [hlive] at hrest⟩

theorem PeerEntry.ReservesWithin.of_zero (h : e'.reservation = 0) : e.ReservesWithin e' :=
  ⟨h ▸ Nat.zero_le _, fun _ => .inr h⟩

end

/-- The entry once a DATA record has been taken in sequence (R55). -/
def PeerEntry.taken (e : PeerEntry) : PeerEntry := { e with expected := e.expected + 1 }

section
variable (e : PeerEntry)

theorem PeerEntry.carry_reserves (c : Carried) : e.ReservesWithin (e.carry c) := by
  rw [PeerEntry.carry_eq]
  exact .of_eq rfl rfl rfl

theorem PeerEntry.controlDone_reserves (k : ControlKind) (c : Carried) : e.ReservesWithin (e.controlDone k c) := by
  unfold PeerEntry.controlDone
  split
  · cases k <;> exact .of_eq rfl rfl rfl
  · exact .rfl

theorem PeerEntry.setAckPending_reserves (d : Nat) : e.ReservesWithin (e.setAckPending d) := by
  rcases e.setAckPending_cases d with ⟨-, h⟩ | ⟨-, -, h⟩ | ⟨-, -, -, h⟩ | ⟨-, -, -, h⟩ <;> rw [h] <;>
    exact .of_eq rfl rfl rfl

theorem PeerEntry.acked_reserves (a : Seq) (ackTimer : Nat) : e.ReservesWithin (e.acked a ackTimer) := by
  unfold PeerEntry.acked
  split <;> exact .of_eq rfl rfl rfl

theorem PeerEntry.takeLimit_reserves (a l : Seq) : e.ReservesWithin (e.takeLimit a l) := by
  unfold PeerEntry.takeLimit
  split <;> exact .of_eq rfl rfl rfl

/-- A restart keeps the reservation, now counted from 0 (R30 step 4). -/
theorem PeerEntry.reservation_restarted (d : Nat) : (e.restarted d).reservation = e.reservation := by
  rw [PeerEntry.restarted_eq]
  simp [PeerEntry.reservation]

theorem PeerEntry.reservation_ended (st : AssocState) (epoch : Epoch) :
    ({ e.ended with state := st, peerEpoch := epoch } : PeerEntry).reservation = 0 := by
  simp [PeerEntry.reservation, PeerEntry.ended]

/-- A DATA record taken in sequence turns one reserved record into a stored one (R55, R75). -/
theorem PeerEntry.reservation_stored (h : 0 < e.reservation) :
    e.taken.reservation + 1 = e.reservation := by
  simp only [PeerEntry.reservation, PeerEntry.taken] at h ⊢
  bv_omega

end

/-! ### What one operation makes of the commitment -/

/-- A state that commits no more of the store than another did: the same record and delivery queue, and no reservation
grown. -/
structure State.CommitsWithin (s t : State) : Prop where
  cfg : t.cfg = s.cfg
  configured : t.control.opState = .unconfigured → s.control.opState = .unconfigured
  delivery : t.mst.delivery = s.mst.delivery
  stored : t.mst.stored = s.mst.stored
  storedGroup : t.mst.storedGroup = s.mst.storedGroup
  peers : ∀ p, (s.peer p).ReservesWithin (t.peer p)

section
variable {s t : State}

theorem State.CommitsWithin.rfl : s.CommitsWithin s := ⟨Eq.refl _, id, Eq.refl _, Eq.refl _, Eq.refl _, fun _ => .rfl⟩

theorem State.CommitsWithin.trans {u : State} (h : s.CommitsWithin t) (h' : t.CommitsWithin u) : s.CommitsWithin u where
  cfg := h'.cfg.trans h.cfg
  configured hu := h.configured (h'.configured hu)
  delivery := h'.delivery.trans h.delivery
  stored := h'.stored.trans h.stored
  storedGroup := h'.storedGroup.trans h.storedGroup
  peers p := (h.peers p).trans (h'.peers p)

theorem State.CommitsWithin.onPeer (h : s.CommitsWithin t) {p : Station} {f : PeerEntry → PeerEntry}
    (hf : (s.peer p).ReservesWithin (f (t.peer p))) : s.CommitsWithin (t.onPeer p f) where
  cfg := h.cfg
  configured := h.configured
  delivery := h.delivery
  stored := h.stored
  storedGroup := h.storedGroup
  peers q := by
    rw [State.peer_onPeer]
    split
    next hq => exact hq ▸ hf
    next => exact h.peers q

theorem State.reserved_le (h : ∀ p, (t.peer p).reservation ≤ (s.peer p).reservation) :
    t.pen.reserved ≤ s.pen.reserved := by
  rw [State.reserved_eq_sum, State.reserved_eq_sum]
  exact Finset.sum_le_sum fun p _ => h p

/-- A commitment that has not grown is within the law (R73, R74). -/
theorem State.StoreLaw.within (hs : s.StoreLaw) (h : s.CommitsWithin t) : t.StoreLaw := by
  obtain ⟨hstored, hgroup, hheadroom, hcommitted, hreserved, hempty⟩ := hs
  have hsum := State.reserved_le fun p => (h.peers p).reservation_le
  unfold State.StoreLaw
  rw [h.cfg, h.delivery, h.stored, h.storedGroup]
  refine ⟨hstored, hgroup, hheadroom, by omega, fun p => ?_, fun hu => hempty (h.configured hu)⟩
  have hle := (h.peers p).reservation_le
  obtain ⟨hquota, hrest⟩ := hreserved p
  refine ⟨hle.trans hquota, fun hp => ?_⟩
  rcases (h.peers p).at_rest hp with hp | hzero
  · have hzero := hrest hp
    omega
  · exact hzero

end

section
variable (s : State) (p : Station)

theorem State.onTxs_commits (f : Txs → Txs) : s.CommitsWithin (s.onTxs f) := ⟨rfl, id, rfl, rfl, rfl, fun _ => .rfl⟩
theorem State.count_commits (c : CounterName) : s.CommitsWithin (s.count c) := ⟨rfl, id, rfl, rfl, rfl, fun _ => .rfl⟩

theorem State.carry_commits (c : Carried) : s.CommitsWithin (s.carry p c) :=
  .onPeer .rfl (PeerEntry.carry_reserves _ c)

theorem State.controlOk_commits (k : ControlKind) (c : Carried) : s.CommitsWithin (s.controlOk k p c) :=
  have hdone : s.CommitsWithin (s.onPeer p (PeerEntry.controlDone k c)) :=
    .onPeer .rfl (PeerEntry.controlDone_reserves _ k c)
  (hdone.trans (State.carry_commits _ p c)).trans (State.onTxs_commits _ _)

theorem State.firstSendOk_commits (h : Option Handle) (q : Seq) (c : Carried) :
    s.CommitsWithin (s.firstSendOk h p q c) := by
  refine State.CommitsWithin.trans ?_ (State.carry_commits _ p c)
  split
  · exact .rfl
  · split
    · exact (s.onTxs_commits _).onPeer (.of_eq rfl rfl rfl)
    · exact .rfl

theorem State.resendOk_commits (h : Option Handle) (q : Seq) (c : Carried) : s.CommitsWithin (s.resendOk h p q c) := by
  have hcounted := s.count_commits .retransmissions
  refine State.CommitsWithin.trans ?_ (State.carry_commits _ p c)
  split
  · exact hcounted
  · split
    · exact hcounted.trans (State.onTxs_commits _ _)
    · exact hcounted

/-- A restart leaves every reservation (R30). -/
theorem State.reservation_restartNoticed (q : Station) :
    ((s.restartNoticed p).peer q).reservation = (s.peer q).reservation := by
  rw [State.restartNoticed_peer]
  split
  next h => rw [← h, PeerEntry.reservation_restarted]
  next => rfl

theorem State.restartNoticed_commits : s.CommitsWithin (s.restartNoticed p) where
  cfg := by rw [State.cfg, State.restartNoticed_control, State.cfg]
  configured := by rw [State.restartNoticed_control]; exact id
  delivery := by unfold State.restartNoticed; split <;> rfl
  stored := by unfold State.restartNoticed; split <;> rfl
  storedGroup := by unfold State.restartNoticed; split <;> rfl
  peers q := ⟨(s.reservation_restartNoticed p q).le, fun hrest => .inl <| by
    rw [State.restartNoticed_peer] at hrest
    split at hrest
    next h => rwa [PeerEntry.isLive, PeerEntry.restarted_state, h] at hrest
    next => exact hrest⟩

/-- The entry linked anew or resynchronised reserves what it did, and is live (R32, R37). -/
theorem State.opened_commits (epoch : Epoch) (limit : Seq) : s.CommitsWithin (s.opened p epoch limit) :=
  (s.restartNoticed_commits p).onPeer (.of_live rfl (s.reservation_restartNoticed p p).le)

theorem State.resynchronised_commits (epoch : Epoch) : s.CommitsWithin (s.resynchronised p epoch) := by
  unfold State.resynchronised
  split
  · exact (s.restartNoticed_commits p).onPeer (.of_live rfl (s.reservation_restartNoticed p p).le)
  · exact .onPeer .rfl (.of_live rfl le_rfl)

theorem State.sessionEnd_commits (st : AssocState) (epoch : Epoch) : s.CommitsWithin (s.sessionEnd p st epoch) :=
  (s.onTxs_commits _).onPeer (.of_zero (PeerEntry.reservation_ended _ st epoch))

theorem State.withdrawPeer_commits : s.CommitsWithin (s.withdrawPeer p) := by
  rcases s.withdrawPeer_cases p with ⟨-, h⟩ | ⟨hlost, h⟩ | ⟨-, -, h⟩ <;> rw [h]
  · exact s.sessionEnd_commits p _ _
  · exact .onPeer .rfl ⟨le_rfl, fun _ => .inl (by rw [PeerEntry.isLive, hlost]; rfl)⟩
  · exact .rfl

theorem State.withdrawAll_commits : s.CommitsWithin s.withdrawAll :=
  State.withdrawAll_induction (P := s.CommitsWithin) .rfl fun t p h => h.trans (t.withdrawPeer_commits p)

theorem State.enterDetached_commits : s.CommitsWithin s.enterDetached := by
  have h := s.withdrawAll_commits
  have hmst : s.enterDetached.mst = s.withdrawAll.mst := by simp [State.enterDetached, State.withdrawAll_onControl]
  exact ⟨State.cfg_of_controlView s.controlView_enterDetached rfl, by simp [State.enterDetached],
    by rw [hmst, h.delivery], by rw [hmst, h.stored], by rw [hmst, h.storedGroup],
    fun p => by rw [s.peer_enterDetached]; exact h.peers p⟩

theorem State.beginLeaving_commits : s.CommitsWithin s.beginLeaving := by
  have h := (s.onTxs_commits _).trans s.unstagedCancelled.withdrawAll_commits
  have hmst : s.beginLeaving.mst = s.unstagedCancelled.withdrawAll.mst := by simp [State.beginLeaving_eq]
  exact ⟨State.cfg_of_controlView s.controlView_beginLeaving rfl, by simp [State.beginLeaving],
    by rw [hmst, h.delivery], by rw [hmst, h.stored], by rw [hmst, h.storedGroup],
    fun p => by rw [s.peer_beginLeaving]; exact h.peers p⟩

variable {s p}

theorem State.takeAckLimit_mst {a l : Seq} {t : State} (ht : s.takeAckLimit p a l = some t) : t.mst = s.mst := by
  unfold State.takeAckLimit at ht
  split at ht
  · obtain rfl := Option.some.inj ht
    simp only [State.onPeer_mst, State.takeAck]
    split <;> rfl
  · cases ht

theorem State.takeAckLimit_commits {a l : Seq} {t : State} (ht : s.takeAckLimit p a l = some t) :
    s.CommitsWithin t := by
  have h := State.takesAckLimit ht
  have hmst := State.takeAckLimit_mst ht
  refine ⟨by rw [State.cfg, h.control, State.cfg], by rw [h.control]; exact id, by rw [hmst], by rw [hmst],
    by rw [hmst], fun q => ?_⟩
  · by_cases hq : p = q
    · subst hq
      rw [h.entry]
      exact (PeerEntry.acked_reserves _ _ _).trans (PeerEntry.takeLimit_reserves _ _ _)
    · rw [h.others q hq]
      exact .rfl

theorem State.accept_commits {a l : Seq} {t : State} (ht : s.takeAckLimit p a l = some t) :
    s.CommitsWithin (t.onPeer p PeerEntry.accepted) :=
  have h := State.takeAckLimit_commits ht
  h.onPeer ((h.peers p).trans (.of_live rfl le_rfl))

end

/-! ### Changes that move the commitment -/

section
variable {s : State}

theorem State.ControlLaw.unset (hc : s.ControlLaw) (hu : s.control.opState = .unconfigured) : s.cfg = .unset := by
  rw [State.cfg, hc.1.2 hu]
  rfl

/-- One grant moves a record from the uncommitted ones to a reservation below quota (R77, R78). -/
theorem State.StoreLaw.grantTo (hs : s.StoreLaw) (hc : s.ControlLaw) {p : Station} (hp : s.nextGrant = some p) :
    (s.grantTo p).StoreLaw := by
  obtain ⟨hstored, hgroup, hheadroom, hcommitted, hreserved, hempty⟩ := hs
  obtain ⟨hpos, heligible⟩ := State.nextGrant_some hp
  obtain ⟨hrunning, hlive, hroom⟩ := State.eligible_iff.1 heligible
  have hquota : s.cfg.quota ≤ 15 := by
    obtain ⟨-, hrange, -⟩ := hc.inRange (by rw [hrunning]; decide)
    exact hrange.2
  have hgranted := State.reservation_grantTo hquota hp
  have hmoved := (State.commitment_grantTo hquota hp).2
  simp only [State.uncommitted, State.headroomOpen, Config.storeSize] at hpos
  have hsum : s.mst.stored + (s.grantTo p).pen.reserved + (s.cfg.headroom - s.mst.storedGroup) ≤ 48 := by omega
  refine ⟨hstored, hgroup, hheadroom, hsum, fun q => ?_, hempty⟩
  rw [State.peer_grantTo]
  split
  · refine ⟨show _ ≤ s.cfg.quota by omega, fun hrest => ?_⟩
    rw [PeerEntry.isLive, PeerEntry.granted_state] at hrest
    exact absurd (PeerEntry.isLive_iff.2 hlive) (by simp [PeerEntry.isLive, hrest])
  · exact hreserved q

/-- A record that was reserved for a peer is stored (R55, R75). -/
theorem State.StoreLaw.stored (hs : s.StoreLaw) (hc : s.ControlLaw) {p : Station} (hp : (s.peer p).state = .linked)
    (hroom : 0 < (s.peer p).reservation) {r : DeliveryRecord} (hr : r.isGroup = false) :
    ((s.onMst (Mst.store r)).onPeer p PeerEntry.taken).StoreLaw := by
  obtain ⟨hstored, hgroup, hheadroom, hcommitted, hreserved, hempty⟩ := hs
  have hmoved := State.reserved_onPeer (s.onMst (Mst.store r)) p PeerEntry.taken
  have htaken := PeerEntry.reservation_stored (s.peer p) hroom
  simp only [State.peer_onMst, State.onMst_pen] at hmoved
  have hlive : (s.peer p).isLive = true := PeerEntry.isLive_iff.2 (.inr hp)
  have hcount : r.groupCount = 0 := by simp [DeliveryRecord.groupCount, hr]
  unfold State.StoreLaw
  simp only [State.onPeer_mst, State.onMst_mst, Mst.store, State.cfg_onPeer, State.cfg_onMst, hcount]
  refine ⟨by simp [hstored], by simp [hgroup, hr], hheadroom, by omega, fun q => ?_, fun hu => ?_⟩
  · rw [State.peer_onPeer]
    split
    · have hle := (hreserved p).1
      exact ⟨show (s.peer p).taken.reservation ≤ s.cfg.quota by omega,
        fun hrest => absurd (hlive.symm.trans hrest) (by decide)⟩
    · exact hreserved q
  · have hle := (hreserved p).1
    rw [hc.unset hu] at hle
    exact absurd hroom (Nat.not_lt.2 hle)

/-- A DATA record is stored in the record that was reserved for it (R55, R75). -/
theorem State.StoreLaw.takeSeq (hs : s.StoreLaw) (hc : s.ControlLaw) {p : Station} (hp : (s.peer p).state = .linked)
    (q : Seq) (payload : List Byte) : (s.takeSeq p q payload).StoreLaw := by
  have hcounted : ∀ c, ((s.count c).onPeer p (PeerEntry.setAckPending s.cfg.ackDelay)).StoreLaw := fun c =>
    hs.within ((s.count_commits c).onPeer (PeerEntry.setAckPending_reserves _ _))
  cases hd : (s.peer p).seqDecision q with
  | creditViolation => rw [State.takeSeq_creditViolation hd]; exact hs
  | duplicate => rw [State.takeSeq_duplicate hd]; exact hcounted _
  | outOfOrder => rw [State.takeSeq_outOfOrder hd]; exact hcounted _
  | accept =>
    have hroom : 0 < (s.peer p).reservation := by
      unfold PeerEntry.seqDecision at hd
      split at hd
      · split at hd
        · assumption
        · cases hd
      · split at hd <;> cases hd
    rw [(State.takeSeq_accept hd).trans (State.onPeer_onPeer _ p PeerEntry.taken _).symm]
    exact State.StoreLaw.within (hs.stored hc hp hroom rfl) (.onPeer .rfl (PeerEntry.setAckPending_reserves _ _))

/-- A GROUP record is stored in the headroom that is open (R76, R117). -/
theorem State.StoreLaw.groupReceived (hs : s.StoreLaw) (hc : s.ControlLaw) (p : Station) (tag : Byte)
    (payload : List Byte) : (s.groupReceived p tag payload).StoreLaw := by
  cases hf : acceptingEntry s.cfg.filters tag with
  | none => rw [State.groupReceived_filtered hf]; exact hs
  | some i =>
    by_cases hroom : s.mst.storedGroup < s.cfg.headroom
    · rw [State.groupReceived_stored hf hroom]
      obtain ⟨hstored, hgroup, hheadroom, hcommitted, hreserved, hempty⟩ := hs
      refine ⟨?_, ?_, hroom, ?_, hreserved, fun hu => ?_⟩
      · simp [Mst.store, hstored]
      · simp [Mst.store, hgroup, DeliveryRecord.isGroup, DeliveryRecord.groupCount]
      · simp only [State.onMst_mst, Mst.store, State.cfg_onMst, State.onMst_pen, DeliveryRecord.groupCount,
          DeliveryRecord.isGroup, if_true]
        omega
      · rw [hc.unset hu] at hroom
        exact absurd hroom (Nat.not_lt_zero _)
    · rw [State.groupReceived_noRoom hf (Nat.not_lt.1 hroom)]
      exact hs

/-- The head record leaves the queue, and a GROUP record opens its headroom again (R84). -/
theorem State.StoreLaw.release (hs : s.StoreLaw) (hd : s.mst.delivery ≠ []) : (s.onMst Mst.release).StoreLaw := by
  obtain ⟨r, rest, hd⟩ := List.exists_cons_of_ne_nil hd
  obtain ⟨hstored, hgroup, hheadroom, hcommitted, hreserved, hempty⟩ := hs
  rw [hd] at hstored hgroup hempty
  have hcount : (r :: rest).countP DeliveryRecord.isGroup = rest.countP DeliveryRecord.isGroup + r.groupCount :=
    List.countP_cons
  have hreleased : s.mst.release = ⟨rest, s.mst.stored - 1, s.mst.storedGroup - r.groupCount, s.mst.rotation⟩ := by
    simp only [Mst.release, hd]
  have hone : r.groupCount ≤ 1 := by unfold DeliveryRecord.groupCount; split <;> omega
  rw [List.length_cons] at hstored
  unfold State.StoreLaw
  simp only [State.onMst_mst, hreleased, State.cfg_onMst, State.onMst_pen, State.peer_onMst]
  exact ⟨by omega, by omega, by omega, by omega, hreserved, fun hu => absurd (hempty hu) (by simp)⟩

end

/-! ### Every change -/

/-- With an empty store and no reservation, the headroom is all that is committed. -/
theorem State.storeLaw_of_empty {s : State} (hmst : s.mst.delivery = [] ∧ s.mst.stored = 0 ∧ s.mst.storedGroup = 0)
    (hheadroom : s.cfg.headroom ≤ 48) (hreserved : ∀ p, (s.peer p).reservation = 0) : s.StoreLaw := by
  obtain ⟨hdelivery, hstored, hgroup⟩ := hmst
  have hsum : s.pen.reserved = 0 := by simp [State.reserved_eq_sum, hreserved]
  unfold State.StoreLaw
  rw [hdelivery, hstored, hgroup, hsum]
  exact ⟨rfl, rfl, Nat.zero_le _, by omega, fun p => by simp [hreserved p], fun _ => rfl⟩

theorem State.reservation_initial {s : State} (h : s.pen.peers = initialPeers s.control.ownAddr) (p : Station) :
    (s.peer p).reservation = 0 := by
  rcases State.peer_initial h p with hp | hp <;> rw [hp] <;> rfl

/-- The headroom is within the store. -/
theorem State.StoreLaw.headroom {s : State} (hs : s.StoreLaw) : s.cfg.headroom ≤ 48 := by
  obtain ⟨hstored, hgroup, hheadroom, hcommitted, -⟩ := hs
  have hle := List.countP_le_length (p := DeliveryRecord.isGroup) (l := s.mst.delivery)
  omega

/-- What the law of the store rests on. -/
structure State.StoreHolds (s : State) : Prop where
  control : s.ControlLaw
  peers : s.PeerLaw
  store : s.StoreLaw

/-- The frozen record finds the store empty and every reservation at 0 (R74, R87, R140, R145). -/
theorem State.StoreHolds.configured {s : State} (hs : s.StoreHolds) (ho : s.control.opState = .unconfigured)
    {r : RawRecord} (hc : firstFailingCheck s.control.ownAddr r = none) : (s.acceptConfig (configOf r)).StoreLaw := by
  obtain ⟨hstored, hgroup, -, -, hreserved, hempty⟩ := hs.store
  have hdelivery := hempty ho
  rw [hdelivery] at hstored hgroup
  obtain ⟨-, -, hheadroom, -⟩ := (recordInRange_configOf hc).1
  refine State.storeLaw_of_empty ⟨hdelivery, hstored, hgroup⟩ (Nat.le_trans hheadroom (by decide))
    fun p => (hreserved p).2 ?_
  rcases hs.peers.2 (by rw [State.isRunning, ho]; rfl) p with h | h <;> rw [PeerEntry.isLive, h] <;> rfl

/-- Every change keeps the law of the store. -/
theorem State.StoreHolds.store_change {s t : State} (hs : s.StoreHolds) (h : Change s t) : t.StoreLaw := by
  have hstore := hs.store
  cases h
  case tick =>
    exact hstore.within ⟨rfl, id, rfl, rfl, rfl, fun p => s.peer_tick p ▸ .of_eq rfl rfl rfl⟩
  case helloSent e _ =>
    refine hstore.within ?_
    unfold State.helloOk
    split <;> exact ⟨rfl, id, rfl, rfl, rfl, fun _ => .rfl⟩
  case controlSent k p c _ => exact hstore.within ((s.controlOk_commits p k c).trans (State.onTxs_commits _ _))
  case firstSent h p q c _ => exact hstore.within ((s.firstSendOk_commits p h q c).trans (State.onTxs_commits _ _))
  case resent h p q c _ => exact hstore.within ((s.resendOk_commits p h q c).trans (State.onTxs_commits _ _))
  case failed =>
    rw [State.takeFailure_eq]
    exact hstore
  case releaseRecord hd => exact hstore.release hd
  case group p tag payload => exact hstore.groupReceived hs.control p tag payload
  case grant p hp => exact hstore.grantTo hs.control hp
  case refresh p _ _ => exact hstore.within (.onPeer .rfl (.of_eq rfl rfl rfl))
  case resynchronise p epoch _ _ _ => exact hstore.within (s.resynchronised_commits p epoch)
  case openLink p epoch limit _ _ _ _ => exact hstore.within (s.opened_commits p epoch limit)
  case leave p _ => exact hstore.within (s.sessionEnd_commits p _ _)
  case lose p _ => exact hstore.within (s.sessionEnd_commits p _ _)
  case forget p hp => exact hstore.within (.onPeer .rfl ⟨le_rfl, fun _ => .inl (by rw [PeerEntry.isLive, hp]; rfl)⟩)
  case ackLimit ht => exact hstore.within (State.takeAckLimit_commits ht)
  case accept ht => exact hstore.within (State.accept_commits ht)
  case seq p q payload hp => exact hstore.takeSeq hs.control hp q payload
  case joinRetry p _ _ => exact hstore.within (.onPeer .rfl (.of_eq rfl rfl rfl))
  case ackRetry p _ _ _ => exact hstore.within ((s.onTxs_commits _).onPeer (.of_eq rfl rfl rfl))
  case ackDelay p _ _ => exact hstore.within (.onPeer .rfl (.of_eq rfl rfl rfl))
  case rejoin => exact hstore.within ⟨rfl, nofun, rfl, rfl, rfl, fun _ => .rfl⟩
  case detach => exact hstore.within s.enterDetached_commits
  case configure r ho hc => exact hs.configured ho hc
  case start => exact hstore.within ⟨rfl, nofun, rfl, rfl, rfl, fun _ => .rfl⟩
  case beginLeaving => exact hstore.within s.beginLeaving_commits
  case endLeaving timedOut _ _ => cases timedOut <;> exact hstore.within ⟨rfl, nofun, rfl, rfl, rfl, fun _ => .rfl⟩
  case softReset => exact State.storeLaw_of_empty ⟨rfl, rfl, rfl⟩ hstore.headroom (State.reservation_initial rfl)
  all_goals exact hstore.within ⟨rfl, id, rfl, rfl, rfl, fun _ => .rfl⟩

theorem stepInvariant_storeHolds : StepInvariant (fun _ => True) State.StoreHolds where
  queues _ _ hs := ⟨hs.control, hs.peers, hs.store⟩
  reset own phase low pending inputs :=
    ⟨stepInvariant_controlLaw.reset own phase low pending inputs,
      stepInvariant_peerLaw.reset own phase low pending inputs,
      State.storeLaw_of_empty ⟨rfl, rfl, rfl⟩ (Nat.zero_le _) (State.reservation_initial rfl)⟩
  stage {s} hp hs hc := by
    refine ⟨stepInvariant_controlLaw.stage hp hs.control hc, stepInvariant_peerLaw.stage hp hs.peers hc, ?_⟩
    rcases s.stage_cases with h | ⟨c, u, f, r, -, -, h⟩ <;> rw [h] <;> exact hs.store
  change h hs := ⟨hs.control.change h, hs.peers.change h, hs.store_change h⟩

/-- Settles O57: every change that an event is made of keeps the law of the store along with the laws it rests on. -/
theorem storeIsNeverOvercommitted : Obligations.StoreIsNeverOvercommitted := fun _ _ hcontrol hpeers hstore ht =>
  (stepInvariant_storeHolds.step ht (fun _ _ => trivial) ⟨hcontrol, hpeers, hstore⟩).store

end Sys2Proof.Machine
end

section
/-! PROOFS. The bounds of what the host sees: every report and every frame keeps score, counters, notices and messages
in them, and the line and the timers leave the port alone. -/

namespace Sys2Proof.Machine

/-! ### What an operation keeps -/

/-- An operation keeps score, counters, notices and messages in their bounds (R71, R89, R126, R175, R178, R181). -/
structure State.KeepsBounds (s t : State) : Prop where
  bounds : s.BoundsLaw → t.BoundsLaw
  messages : s.MessageLaw → t.MessageLaw

/-- An operation keeps the bounds, and it is none of the port's. -/
structure State.LeavesPort (s t : State) : Prop extends s.KeepsBounds t where
  port : t.hpt.port = s.hpt.port

section
variable {s t u : State}

theorem State.KeepsBounds.refl : s.KeepsBounds s := ⟨id, id⟩

theorem State.KeepsBounds.trans (h : s.KeepsBounds t) (h' : t.KeepsBounds u) : s.KeepsBounds u :=
  ⟨h'.bounds ∘ h.bounds, h'.messages ∘ h.messages⟩

theorem State.LeavesPort.refl : s.LeavesPort s := ⟨.refl, rfl⟩

theorem State.LeavesPort.trans (h : s.LeavesPort t) (h' : t.LeavesPort u) : s.LeavesPort u :=
  ⟨h.toKeepsBounds.trans h'.toKeepsBounds, h'.port.trans h.port⟩

end

/-! ### The messages in the slots -/

/-- The message in each slot. -/
def Txs.messages (t : Txs) (h : Handle) : Option Message := (t.slot h).message

@[simp] theorem Slot.message_completed (o : SlotOutcome) (x : Slot) : (x.completed o).message = x.message := by
  cases x <;> rfl
@[simp] theorem Slot.message_withMark (b : Bool) (x : Slot) : (x.withMark b).message = x.message := by cases x <;> rfl
@[simp] theorem Slot.message_becomeSent (q : Seq) (b : Bool) (x : Slot) : (x.becomeSent q b).message = x.message := by
  cases x <;> rfl

section
variable (t : Txs)

theorem Txs.messages_setSlot {t : Txs} {h : Handle} {x : Slot} (hx : x.message = (t.slot h).message) :
    (t.setSlot h x).messages = t.messages := by
  funext k
  rw [Txs.messages, Txs.slot_setSlot]
  split
  next hk => rw [hx, hk, Txs.messages]
  next => rfl

@[simp] theorem Txs.messages_complete (o : SlotOutcome) (h : Handle) : (t.complete o h).messages = t.messages := by
  funext k
  rw [Txs.messages, Txs.slot_complete]
  split
  next hk => rw [Slot.message_completed, hk, Txs.messages]
  next => rfl

@[simp] theorem Txs.messages_completeAll (o : SlotOutcome) (hs : List Handle) :
    (t.completeAll o hs).messages = t.messages := by
  funext k
  rw [Txs.messages, Txs.slot_completeAll]
  split <;> simp [Txs.messages]

@[simp] theorem Txs.messages_voidSession (p : Station) (q : Seq) : (t.voidSession p q).messages = t.messages := by
  simp [Txs.voidSession]

@[simp] theorem Txs.messages_endSession (p : Station) (q : Seq) : (t.endSession p q).messages = t.messages := by
  simp [Txs.endSession]

@[simp] theorem Txs.messages_markSent (p : Station) : (t.markSent p).messages = t.messages := by
  funext k
  rw [Txs.messages, Txs.slot_markSent]
  split <;> simp [Txs.messages]

@[simp] theorem Txs.messages_cancelStagedGroup : t.cancelStagedGroup.messages = t.messages := by
  unfold Txs.cancelStagedGroup
  split
  · split <;> simp
  · rfl

@[simp] theorem Txs.messages_sendStagedGroup (h : Option Handle) : (t.sendStagedGroup h).messages = t.messages := by
  unfold Txs.sendStagedGroup
  split
  · rfl
  · split <;> simp

end

/-! ### Counters and notices -/

theorem countUp_le (n : Nat) : countUp n ≤ 65535 := Nat.min_le_left _ _

/-- A counter stays within its bound: the one that advances saturates (R181). -/
theorem Counters.bump_le {b : Counters} (h : ∀ n ∈ b.toList, n ≤ 65535) (c : CounterName) :
    ∀ n ∈ (b.bump c).toList, n ≤ 65535 := by
  simp only [Counters.toList, List.forall_mem_cons] at h ⊢
  cases c <;> simp [Counters.bump, countUp_le, h]

theorem Counters.reduceBy_le {b : Counters} (h : ∀ n ∈ b.toList, n ≤ 65535) (snap : Counters) :
    ∀ n ∈ (b.reduceBy snap).toList, n ≤ 65535 := by
  have hzip : (b.reduceBy snap).toList = List.zipWith (· - ·) b.toList snap.toList := rfl
  intro n hn
  rw [hzip] at hn
  obtain ⟨i, hi, rfl⟩ := List.getElem_of_mem hn
  rw [List.getElem_zipWith]
  exact (Nat.sub_le _ _).trans (h _ (List.getElem_mem _))

/-! ### One block changed -/

section
variable (s : State)

theorem State.leavesPort_onControl (f : Control → Control) : s.LeavesPort (s.onControl f) := ⟨⟨id, id⟩, rfl⟩
theorem State.leavesPort_onLiu (f : Liu → Liu) : s.LeavesPort (s.onLiu f) := ⟨⟨id, id⟩, rfl⟩
theorem State.leavesPort_onPen (f : Pen → Pen) : s.LeavesPort (s.onPen f) := ⟨⟨id, id⟩, rfl⟩
theorem State.leavesPort_onPeer (p : Station) (f : PeerEntry → PeerEntry) : s.LeavesPort (s.onPeer p f) :=
  ⟨⟨id, id⟩, rfl⟩

theorem State.leavesPort_onHmn {s : State} {f : Hmn → Hmn} (h : s.hmn.score ≤ 255 → (f s.hmn).score ≤ 255) :
    s.LeavesPort (s.onHmn f) := ⟨⟨fun ⟨hscore, hrest⟩ => ⟨h hscore, hrest⟩, id⟩, rfl⟩

theorem State.leavesPort_holdoff (n : Nat) : s.LeavesPort (s.onHmn fun m => { m with holdoff := n }) :=
  State.leavesPort_onHmn id

theorem State.leavesPort_level (l : Level) : s.LeavesPort (s.onHmn fun m => { m with level := l }) :=
  State.leavesPort_onHmn id

theorem State.leavesPort_onTxs {s : State} {f : Txs → Txs} (h : (f s.txs).messages = s.txs.messages) :
    s.LeavesPort (s.onTxs f) :=
  ⟨⟨id, fun ⟨hslots, hdelivery⟩ => ⟨fun k m hm => hslots k m ((congrFun h k).symm.trans hm), hdelivery⟩⟩, rfl⟩

theorem State.leavesPort_onMst {s : State} {f : Mst → Mst} (h : ∀ r ∈ (f s.mst).delivery, r ∈ s.mst.delivery) :
    s.LeavesPort (s.onMst f) := ⟨⟨id, fun ⟨hslots, hdelivery⟩ => ⟨hslots, fun r hr => hdelivery r (h r hr)⟩⟩, rfl⟩

theorem State.leavesPort_store {r : DeliveryRecord} (h : r.payload.length ≤ 48) :
    s.LeavesPort (s.onMst (Mst.store r)) := by
  refine ⟨⟨id, fun ⟨hslots, hdelivery⟩ => ⟨hslots, fun r' hr => ?_⟩⟩, rfl⟩
  rcases List.mem_append.1 hr with hr | hr
  · exact hdelivery r' hr
  · rwa [List.mem_singleton.1 hr]

theorem State.leavesPort_count (c : CounterName) : s.LeavesPort (s.count c) :=
  ⟨⟨fun ⟨hscore, hcounters, hrest⟩ => ⟨hscore, Counters.bump_le hcounters c, hrest⟩, id⟩, rfl⟩

/-- With room in the queue a notice joins its tail, stamped with the time of its event (R176, R177). -/
theorem State.raise_of_room {s : State} (h : s.hpt.notices.length < 16) (k : NoticeKind) :
    s.raise k = { s with hpt := { s.hpt with notices := s.hpt.notices ++ [⟨k, s.stamp⟩] } } := by
  have htaken : s.hpt.takeNotice ⟨k, s.stamp⟩ = { s.hpt with notices := s.hpt.notices ++ [⟨k, s.stamp⟩] } := if_pos h
  rw [State.raise, State.onHpt, htaken]

/-- With 16 records in the queue a notice is counted as dropped, to 255 at most (R178). -/
theorem State.raise_of_full {s : State} (h : 16 ≤ s.hpt.notices.length) (k : NoticeKind) :
    s.raise k = { s with hpt := { s.hpt with drops := min 255 (s.hpt.drops + 1) } } := by
  have htaken : s.hpt.takeNotice ⟨k, s.stamp⟩ = { s.hpt with drops := min 255 (s.hpt.drops + 1) } :=
    if_neg (Nat.not_lt.2 h)
  rw [State.raise, State.onHpt, htaken]

theorem State.leavesPort_raise (k : NoticeKind) : s.LeavesPort (s.raise k) := by
  by_cases h : s.hpt.notices.length < 16
  · rw [State.raise_of_room h]
    exact ⟨⟨fun ⟨hscore, hcounters, hdrops, _⟩ => ⟨hscore, hcounters, hdrops, by simpa using h⟩, id⟩, rfl⟩
  · rw [State.raise_of_full (Nat.not_lt.1 h)]
    exact ⟨⟨fun ⟨hscore, hcounters, _, hnotices⟩ => ⟨hscore, hcounters, Nat.min_le_left _ _, hnotices⟩, id⟩, rfl⟩

/-! ### Sessions and grants -/

theorem State.leavesPort_grantAttempt : s.LeavesPort s.grantAttempt := by
  rw [State.grantAttempt_frame]
  exact ⟨⟨id, id⟩, rfl⟩

/-- Whatever is raised or granted at the end of an association rule. -/
theorem State.leavesPort_raise_grant (k : NoticeKind) : s.LeavesPort (s.raise k).grantAttempt :=
  (s.leavesPort_raise k).trans (State.leavesPort_grantAttempt _)

variable (p : Station)

theorem State.leavesPort_sessionRestart : s.LeavesPort (s.sessionRestart p) :=
  (State.leavesPort_onTxs (Txs.messages_voidSession _ _ _)).trans (State.leavesPort_onPeer _ _ _)

theorem State.leavesPort_sessionEnd (st : AssocState) (epoch : Epoch) : s.LeavesPort (s.sessionEnd p st epoch) :=
  (State.leavesPort_onTxs (Txs.messages_endSession _ _ _)).trans (State.leavesPort_onPeer _ _ _)

theorem State.leavesPort_losePeer (cause : LossCause) : s.LeavesPort (s.losePeer p cause) :=
  (s.leavesPort_sessionEnd p _ _).trans (State.leavesPort_raise_grant _ _)

theorem State.leavesPort_withdrawAll : s.LeavesPort s.withdrawAll := by
  refine State.withdrawAll_induction (P := s.LeavesPort) .refl fun t p ht => ht.trans ?_
  rcases t.withdrawPeer_cases p with ⟨-, h⟩ | ⟨-, h⟩ | ⟨-, -, h⟩ <;> rw [h]
  · exact t.leavesPort_sessionEnd p _ _
  · exact t.leavesPort_onPeer p _
  · exact .refl

theorem State.leavesPort_restartNoticed : s.LeavesPort (s.restartNoticed p) := by
  unfold State.restartNoticed
  split
  · exact (s.leavesPort_sessionRestart p).trans (State.leavesPort_raise _ _)
  · exact s.leavesPort_sessionRestart p

theorem State.leavesPort_resynchronise (epoch : Epoch) : s.LeavesPort (s.resynchronise p epoch) := by
  have hbefore : s.LeavesPort (if (s.peer p).isLive then s.restartNoticed p else s) := by
    split
    · exact s.leavesPort_restartNoticed p
    · exact .refl
  exact (hbefore.trans (State.leavesPort_onPeer _ _ _)).trans (State.leavesPort_grantAttempt _)

theorem State.leavesPort_refresh : s.LeavesPort (s.refresh p) := s.leavesPort_onPeer p _

theorem State.leavesPort_refreshIfMatching (epoch : Epoch) : s.LeavesPort (s.refreshIfMatching p epoch) := by
  unfold State.refreshIfMatching
  split
  · exact s.leavesPort_refresh p
  · exact .refl

/-! ### Frames at FCL -/

theorem State.leavesPort_leavingHelloReceived : s.LeavesPort (s.leavingHelloReceived p) := by
  have hends := (s.leavesPort_sessionEnd p .absent 0).trans (State.leavesPort_raise_grant _ (.peerLeft p))
  unfold State.leavingHelloReceived
  split
  · exact hends
  · exact hends
  · exact s.leavesPort_onPeer p _
  · exact .refl
  · exact .refl

theorem State.leavesPort_helloReceived (epoch : Epoch) : s.LeavesPort (s.helloReceived p epoch) := by
  have hsync := s.leavesPort_resynchronise p epoch
  unfold State.helloReceived
  split
  case h_3 => split <;> [exact .refl; exact hsync]
  case h_4 => split <;> [exact .refl; exact hsync]
  case h_5 => exact .refl
  all_goals exact hsync

theorem State.leavesPort_openReceived (se de : Epoch) (l : Seq) : s.LeavesPort (s.openReceived p se de l) := by
  unfold State.openReceived State.openLink
  split
  · split
    · exact s.leavesPort_count _
    · exact ((s.leavesPort_restartNoticed p).trans (State.leavesPort_onPeer _ p _)).trans
        (State.leavesPort_raise_grant _ _)
  · exact s.leavesPort_resynchronise p se

theorem State.leavesPort_takeAckLimit {s t : State} {p : Station} {a l : Seq} (ht : s.takeAckLimit p a l = some t) :
    s.LeavesPort t := by
  have hack : s.LeavesPort (s.takeAck p a) := by
    simp only [State.takeAck]
    split
    · exact .refl
    · exact State.LeavesPort.trans (State.leavesPort_onTxs (Txs.messages_completeAll _ _ _))
        (State.leavesPort_onPeer _ _ _)
  unfold State.takeAckLimit at ht
  split at ht
  · obtain rfl := Option.some.inj ht
    exact hack.trans (State.leavesPort_onPeer _ _ _)
  · cases ht

theorem State.leavesPort_acceptReceived (se de : Epoch) (a l : Seq) : s.LeavesPort (s.acceptReceived p se de a l) := by
  unfold State.acceptReceived
  split
  · split
    · exact s.leavesPort_count _
    next ht =>
      have htaken := State.leavesPort_takeAckLimit ht
      split
      · exact (htaken.trans (State.leavesPort_onPeer _ p _)).trans (State.leavesPort_raise_grant _ _)
      · exact htaken
  · exact s.leavesPort_count _

theorem State.leavesPort_creditReceived (se de : Epoch) (a l : Seq) : s.LeavesPort (s.creditReceived p se de a l) := by
  unfold State.creditReceived
  split
  · split
    · exact s.leavesPort_count _
    next ht => exact State.leavesPort_takeAckLimit ht
  · exact s.leavesPort_count _

theorem State.leavesPort_controlReceived (k : ControlKind) (se de : Epoch) (a l : Seq) :
    s.LeavesPort (s.controlReceived p k se de a l) := by
  have hrefresh := s.leavesPort_refreshIfMatching p se
  unfold State.controlReceived
  split
  · exact s.leavesPort_count _
  · cases k with
    | openFrame => exact (s.leavesPort_openReceived p se de l).trans (State.leavesPort_refreshIfMatching _ p se)
    | acceptFrame => exact hrefresh.trans (State.leavesPort_acceptReceived _ p se de a l)
    | creditFrame => exact hrefresh.trans (State.leavesPort_creditReceived _ p se de a l)

theorem State.leavesPort_overheard (se : Epoch) : s.LeavesPort (s.overheard p se) := by
  unfold State.overheard
  split
  · exact .refl
  · exact s.leavesPort_refreshIfMatching p se

section
variable {payload : List Byte} (hpayload : payload.length ≤ 48)
include hpayload

theorem State.leavesPort_takeSeq (q : Seq) : s.LeavesPort (s.takeSeq p q payload) := by
  unfold State.takeSeq
  split
  · exact (s.leavesPort_store hpayload).trans (State.leavesPort_onPeer _ p _)
  · exact s.leavesPort_count _
  · exact (s.leavesPort_count _).trans (State.leavesPort_onPeer _ p _)
  · exact (s.leavesPort_count _).trans (State.leavesPort_onPeer _ p _)

theorem State.leavesPort_dataReceived (se de : Epoch) (q a l : Seq) :
    s.LeavesPort (s.dataReceived p se de q a l payload) := by
  unfold State.dataReceived
  split
  · split
    · exact s.leavesPort_count _
    next ht => exact (State.leavesPort_takeAckLimit ht).trans (State.leavesPort_takeSeq _ p hpayload q)
  · exact s.leavesPort_count _

theorem State.leavesPort_groupReceived (tag : Byte) : s.LeavesPort (s.groupReceived p tag payload) := by
  unfold State.groupReceived
  split
  · exact s.leavesPort_count _
  · split
    · exact s.leavesPort_store hpayload
    · exact s.leavesPort_count _

end

/-- The payload of a frame; none in a HELLO or a control frame (R13). -/
def framePayload : FrameBody → List Byte
  | .data _ _ _ _ _ _ payload => payload
  | .group _ payload => payload
  | .hello _ _ => []
  | .control _ _ _ _ _ _ => []

section
variable {f : FrameBody}

theorem framePayload_of_readHello {first e flags : Byte} (h : readHello first e flags = some f) :
    (framePayload f).length ≤ 48 := by
  unfold readHello at h
  split at h
  · obtain rfl := Option.some.inj h
    exact Nat.zero_le _
  · cases h

theorem framePayload_of_readData {first se de b4 b5 b6 : Byte} {payload : List Byte}
    (h : readData first se de b4 b5 b6 payload = some f) : (framePayload f).length ≤ 48 := by
  simp only [readData] at h
  split at h
  next hlength =>
    obtain rfl := Option.some.inj h
    exact hlength.2.trans_le hlength.1
  next => cases h

theorem framePayload_of_readGroup {tag len : Byte} {payload : List Byte} (h : readGroup tag len payload = some f) :
    (framePayload f).length ≤ 48 := by
  simp only [readGroup] at h
  split at h
  next hlength =>
    obtain rfl := Option.some.inj h
    exact hlength.2.trans_le hlength.1
  next => cases h

end

/-- A good frame has at most 48 payload bytes (R13, R18). -/
theorem framePayload_of_receiveFrame {c : BitVec 7} {bytes : List Byte} {source : Address} {f : FrameBody}
    (h : receiveFrame c bytes = some (source, f)) : (framePayload f).length ≤ 48 := by
  have hread : ∀ b, readFrame b = some f → (framePayload f).length ≤ 48 := fun b hb => by
    unfold readFrame at hb
    split at hb
    · split at hb
      · exact framePayload_of_readHello hb
      · obtain rfl := Option.some.inj hb
        exact Nat.zero_le _
      · obtain rfl := Option.some.inj hb
        exact Nat.zero_le _
      · obtain rfl := Option.some.inj hb
        exact Nat.zero_le _
      · exact framePayload_of_readData hb
      · exact framePayload_of_readGroup hb
      · cases hb
    · cases hb
  simp only [receiveFrame] at h
  split at h
  · obtain ⟨f', hf, hpair⟩ := Option.map_eq_some_iff.1 h
    obtain rfl := (Prod.mk.inj hpair).2
    exact hread _ hf
  · cases h

variable {f : FrameBody} (hf : (framePayload f).length ≤ 48)
include hf

theorem State.leavesPort_routeFrame : s.LeavesPort (s.routeFrame p f) := by
  cases f with
  | group tag payload => exact (s.leavesPort_refresh p).trans (State.leavesPort_groupReceived _ p hf tag)
  | hello epoch leaving =>
    simp only [State.routeFrame]
    split
    · exact s.leavesPort_count _
    · split
      · exact s.leavesPort_leavingHelloReceived p
      · exact (s.leavesPort_helloReceived p epoch).trans (State.leavesPort_refresh _ p)
  | control k dest se de a l =>
    simp only [State.routeFrame]
    split
    · exact s.leavesPort_controlReceived p k se de a l
    · exact s.leavesPort_overheard p se
  | data dest se de q a l payload =>
    simp only [State.routeFrame]
    split
    · split
      · exact s.leavesPort_count _
      · exact (s.leavesPort_refreshIfMatching p se).trans (State.leavesPort_dataReceived _ p hf se de q a l)
    · exact s.leavesPort_overheard p se

theorem State.leavesPort_takeRecord (source : Address) : s.LeavesPort (s.takeRecord source f) := by
  unfold State.takeRecord
  split
  · split
    · exact .refl
    · exact s.leavesPort_routeFrame _ hf
  · exact .refl

end

/-! ### Health -/

section
variable (s : State)

theorem State.leavesPort_enterDetached : s.LeavesPort s.enterDetached := by
  have hwithdrawn :=
    (s.leavesPort_onControl fun c => { c with opState := .detached }).trans (State.leavesPort_withdrawAll _)
  exact ((hwithdrawn.trans (State.leavesPort_onPen _ _)).trans (State.leavesPort_holdoff _ _)).trans
    (State.leavesPort_raise _ _)

theorem State.leavesPort_healthReport (r : HealthReport) : s.LeavesPort (s.healthReport r) := by
  rcases s.healthReport_cases r with h | ⟨-, scored, rfl, h⟩
  · rw [h]
    exact .refl
  have hscored : s.LeavesPort (s.onHmn fun m => { m with score := scoreAfter r m.score }) :=
    State.leavesPort_onHmn scoreAfter_le
  rcases h with h | h | h | ⟨-, h⟩ <;> rw [h]
  · exact hscored
  · exact (hscored.trans (State.leavesPort_level _ _)).trans (State.leavesPort_raise _ _)
  · exact (hscored.trans (State.leavesPort_level _ _)).trans (State.leavesPort_raise _ _)
  · exact hscored.trans (State.leavesPort_enterDetached _)

theorem State.leavesPort_reportClash : s.LeavesPort s.reportClash := by
  unfold State.reportClash
  split
  · exact (s.leavesPort_raise _).trans (State.leavesPort_healthReport _ _)
  · exact .refl

theorem State.leavesPort_startHello : s.LeavesPort s.startHello := s.leavesPort_onPen _

/-- The rejoin starts at score 0 (R137). -/
theorem State.leavesPort_rejoin : s.LeavesPort s.rejoin :=
  (((s.leavesPort_onControl _).trans (State.leavesPort_onHmn fun _ => Nat.zero_le _)).trans
    (State.leavesPort_startHello _)).trans (State.leavesPort_raise _ _)

/-! ### The scheduler -/

theorem State.leavesPort_contentionOpportunity : s.LeavesPort s.contentionOpportunity := by
  obtain ⟨c, h⟩ := s.contentionOpportunity_eq
  rw [h]
  exact ⟨⟨id, id⟩, rfl⟩

theorem State.leavesPort_finish : s.LeavesPort s.finish := by
  obtain ⟨c, b, h⟩ := s.finish_eq
  rw [h]
  exact ⟨⟨id, id⟩, rfl⟩

theorem State.leavesPort_stage : s.LeavesPort s.stage := by
  rcases s.stage_cases with h | ⟨c, u, f, r, -, -, h⟩ <;> rw [h] <;> exact ⟨⟨id, id⟩, rfl⟩

theorem State.leavesPort_chooseAndStage : s.LeavesPort s.chooseAndStage := by
  rcases s.chooseAndStage_cases with h | ⟨-, -, h⟩ <;> rw [h]
  · exact .refl
  · exact s.leavesPort_contentionOpportunity.trans (State.leavesPort_stage _)

theorem State.leavesPort_clearStaged : s.LeavesPort s.clearStaged := State.leavesPort_onTxs rfl

theorem State.leavesPort_carry (p : Station) (c : Carried) : s.LeavesPort (s.carry p c) := s.leavesPort_onPeer p _

theorem State.leavesPort_firstSendOk (h : Option Handle) (p : Station) (q : Seq) (c : Carried) :
    s.LeavesPort (s.firstSendOk h p q c) := by
  refine State.LeavesPort.trans ?_ (State.leavesPort_carry _ p c)
  split
  · exact .refl
  · split
    · exact (State.leavesPort_onTxs (Txs.messages_setSlot (Slot.message_becomeSent _ _ _))).trans
        (State.leavesPort_onPeer _ p _)
    · exact .refl

theorem State.leavesPort_resendOk (h : Option Handle) (p : Station) (q : Seq) (c : Carried) :
    s.LeavesPort (s.resendOk h p q c) := by
  have hcounted := s.leavesPort_count .retransmissions
  refine State.LeavesPort.trans ?_ (State.leavesPort_carry _ p c)
  split
  · exact hcounted
  · split
    · exact hcounted.trans (State.leavesPort_onTxs (Txs.messages_setSlot (Slot.message_withMark _ _)))
    · exact hcounted

theorem State.leavesPort_controlOk (k : ControlKind) (p : Station) (c : Carried) : s.LeavesPort (s.controlOk k p c) :=
  ((s.leavesPort_onPeer p _).trans (State.leavesPort_carry _ p c)).trans (State.leavesPort_onTxs rfl)

theorem State.leavesPort_helloOk (epoch : Epoch) : s.LeavesPort (s.helloOk epoch) := by
  unfold State.helloOk
  split
  · exact s.leavesPort_onPen _
  · exact .refl

theorem State.leavesPort_disableLiu : s.LeavesPort s.disableLiu := ⟨⟨id, id⟩, rfl⟩

theorem State.leavesPort_endLeaving (timedOut : Bool) : s.LeavesPort (s.endLeaving timedOut) := by
  have hcancelled : s.LeavesPort (if timedOut then s.onTxs Txs.cancelStagedGroup else s) := by
    split
    · exact State.leavesPort_onTxs (Txs.messages_cancelStagedGroup _)
    · exact .refl
  exact ((hcancelled.trans (State.leavesPort_disableLiu _)).trans (State.leavesPort_onControl _ _)).trans
    (State.leavesPort_raise _ _)

theorem State.leavesPort_takeSentOk : s.LeavesPort s.takeSentOk := by
  unfold State.takeSentOk
  split
  · exact .refl
  · exact (s.leavesPort_helloOk _).trans (State.leavesPort_clearStaged _)
  · split
    · exact s.leavesPort_endLeaving false
    · exact s.leavesPort_clearStaged
  · exact (s.leavesPort_controlOk _ _ _).trans (State.leavesPort_clearStaged _)
  · exact (s.leavesPort_firstSendOk _ _ _ _).trans (State.leavesPort_clearStaged _)
  · exact (s.leavesPort_resendOk _ _ _ _).trans (State.leavesPort_clearStaged _)
  · exact (State.leavesPort_onTxs (Txs.messages_sendStagedGroup _ _)).trans (State.leavesPort_clearStaged _)

theorem State.leavesPort_takeFailure : s.LeavesPort s.takeFailure := by
  unfold State.takeFailure
  split
  · exact (State.leavesPort_onTxs (Txs.messages_cancelStagedGroup _)).trans (State.leavesPort_clearStaged _)
  · exact s.leavesPort_clearStaged

/-! ### Line events and bit times -/

theorem State.leavesPort_onLiu_count (f : Liu → Liu) (c : CounterName) : s.LeavesPort ((s.onLiu f).count c) :=
  (s.leavesPort_onLiu f).trans (State.leavesPort_count _ c)

theorem State.leavesPort_sentOk (stagingFirst : Bool) : s.LeavesPort (s.sentOk stagingFirst) := by
  have hcounted := s.leavesPort_onLiu_count Liu.sentOk .framesSent
  cases stagingFirst with
  | true =>
    exact ((hcounted.trans (State.leavesPort_takeSentOk _)).trans (State.leavesPort_chooseAndStage _)).trans
      (State.leavesPort_healthReport _ _)
  | false => exact (hcounted.trans (State.leavesPort_healthReport _ _)).trans (State.leavesPort_takeSentOk _)

theorem State.leavesPort_loseContention (bit : Fin 7) : s.LeavesPort (s.loseContention bit) :=
  (s.leavesPort_onLiu_count _ _).trans (State.leavesPort_takeFailure _)

theorem State.leavesPort_readbackFault (element : Nat) (scoreFirst : Bool) :
    s.LeavesPort (s.readbackFault element scoreFirst) := by
  have hcounted := s.leavesPort_onLiu_count (Liu.fault element) .readbackFaults
  cases scoreFirst with
  | true => exact (hcounted.trans (State.leavesPort_healthReport _ _)).trans (State.leavesPort_takeFailure _)
  | false => exact (hcounted.trans (State.leavesPort_takeFailure _)).trans (State.leavesPort_healthReport _ _)

theorem State.leavesPort_checkError : s.LeavesPort s.checkError :=
  (s.leavesPort_onLiu_count _ _).trans (State.leavesPort_healthReport _ _)

theorem State.leavesPort_addressClash (order : FrameOrder) : s.LeavesPort (s.addressClash order) := by
  have hcounted := s.leavesPort_count .checkErrors
  cases order with
  | recordFirst => exact hcounted.trans (State.leavesPort_reportClash _)
  | idleAfterScore => exact (hcounted.trans (State.leavesPort_reportClash _)).trans (State.leavesPort_chooseAndStage _)
  | idleBeforeScore => exact (hcounted.trans (State.leavesPort_chooseAndStage _)).trans (State.leavesPort_reportClash _)

theorem State.leavesPort_goodFrame (order : FrameOrder) (source : Address) {f : FrameBody}
    (hf : (framePayload f).length ≤ 48) : s.LeavesPort (s.goodFrame order source f) := by
  have hcounted := s.leavesPort_count .framesReceived
  have hreport : ∀ t : State, t.LeavesPort (t.healthReport .goodFrame) := fun t => t.leavesPort_healthReport _
  have hrecord : ∀ t : State, t.LeavesPort (t.takeRecord source f) := fun t => t.leavesPort_takeRecord hf source
  cases order with
  | recordFirst => exact (hcounted.trans (hreport _)).trans (hrecord _)
  | idleAfterScore => exact ((hcounted.trans (hreport _)).trans (State.leavesPort_chooseAndStage _)).trans (hrecord _)
  | idleBeforeScore => exact ((hcounted.trans (State.leavesPort_chooseAndStage _)).trans (hreport _)).trans (hrecord _)

theorem State.leavesPort_receive (order : FrameOrder) (contention : BitVec 7) (bytes : List Byte) :
    s.LeavesPort (s.receive order contention bytes) := by
  simp only [State.receive]
  split
  · exact s.leavesPort_checkError
  next hreceived =>
    split
    · exact (s.leavesPort_onLiu _).trans (State.leavesPort_addressClash _ order)
    · exact (s.leavesPort_onLiu _).trans
        (State.leavesPort_goodFrame _ order _ (framePayload_of_receiveFrame hreceived))

theorem State.leavesPort_sampleReadback (recessive : Bool) (order : FrameOrder) :
    s.LeavesPort (s.sampleReadback recessive order) := by
  unfold State.sampleReadback
  split
  · exact .refl
  · split
    · split
      · exact s.leavesPort_onLiu _
      · exact s.leavesPort_sentOk _
    · split
      · exact s.leavesPort_loseContention _
      · exact s.leavesPort_readbackFault _ _

theorem State.leavesPort_bitTime (recessive : Bool) (order : FrameOrder) :
    s.LeavesPort (s.bitTime recessive order) := by
  unfold State.bitTime
  split
  · unfold State.sampleIdle
    split
    · exact s.leavesPort_stage.trans (State.leavesPort_sampleReadback _ recessive order)
    · split <;> exact s.leavesPort_onLiu _
  · exact s.leavesPort_sampleReadback recessive order
  · exact s.leavesPort_sampleReadback recessive order
  · unfold State.sampleReceiving
    split
    · exact s.leavesPort_onLiu _
    · exact s.leavesPort_checkError
    · exact s.leavesPort_receive _ _ _
  · unfold State.sampleRecovering
    split <;> exact s.leavesPort_onLiu _

/-! ### Expiries -/

theorem State.leavesPort_joinExpiry (p : Station) : s.LeavesPort (s.joinExpiry p) := by
  unfold State.joinExpiry
  split
  · exact s.leavesPort_onPeer p _
  · exact s.leavesPort_losePeer p _

theorem State.leavesPort_ackExpiry (p : Station) : s.LeavesPort (s.ackExpiry p) := by
  unfold State.ackExpiry
  split
  · exact (State.leavesPort_onTxs (Txs.messages_markSent _ _)).trans (State.leavesPort_onPeer _ p _)
  · exact s.leavesPort_losePeer p _

end

end Sys2Proof.Machine
end

section
/-! PROOFS. The bounds of what the host writes and takes away, the law of the port, and the bounds after every event. -/

namespace Sys2Proof.Machine

/-! ### The slots of the host -/

theorem submitPayloadBytes_le (length : Byte) : submitPayloadBytes length ≤ 48 := by
  unfold submitPayloadBytes
  split
  next h => exact h
  next => exact Nat.zero_le _

section
variable {s : State}

/-- A SUBMIT that passes the checks has an urgency 1 to 3 (R93). -/
theorem State.urgency_of_submitCheck {q : SubmitParams} {x : Handle × Target} (hc : s.submitCheck q = .ok x) :
    q.urgency ≠ 0 ∧ q.urgency.toNat ≤ 3 := by
  unfold State.submitCheck at hc
  split at hc
  · cases hc
  split at hc
  · cases hc
  split at hc
  · cases hc
  next hurgency => exact ⟨fun h => hurgency (.inl h), Nat.not_lt.1 fun h => hurgency (.inr h)⟩

/-- A slot that is filled or freed leaves the bounds where its new message meets them (R89). -/
theorem State.keepsBounds_setSlot {f : Txs → Txs} {h : Handle} {x : Slot}
    (hf : (f s.txs).slots = (s.txs.setSlot h x).slots) (hx : ∀ m ∈ x.message, m.urgency ≠ 0 ∧ m.payload.length ≤ 48) :
    s.KeepsBounds (s.onTxs f) := by
  refine ⟨id, fun ⟨hslots, hdelivery⟩ => ⟨fun k => ?_, hdelivery⟩⟩
  rw [State.onTxs_txs, Txs.slot_congr hf, Txs.slot_setSlot]
  split
  · exact hx
  · exact hslots k

/-- The message a SUBMIT places meets the bounds of a message (R89, R93, R173). -/
theorem State.keepsBounds_place {params : List Byte} {h : Handle} {target : Target}
    (hc : s.submitCheck (readSubmit params) = .ok (h, target)) :
    s.KeepsBounds (s.onTxs (Txs.place h ((readSubmit params).message target))) := by
  refine State.keepsBounds_setSlot (x := .queued ((readSubmit params).message target)) rfl fun m hm => ?_
  obtain rfl := Option.some.inj hm
  obtain ⟨hne, hle⟩ := State.urgency_of_submitCheck hc
  refine ⟨fun hzero => hne ?_, (List.length_take_le _ _).trans (submitPayloadBytes_le _)⟩
  have hzero : (readSubmit params).urgency.setWidth 2 = 0 := hzero
  bv_omega

theorem State.keepsBounds_releaseHead : s.KeepsBounds (s.onTxs Txs.releaseHead) := by
  cases hc : s.txs.completions with
  | nil =>
    have hsame : s.txs.releaseHead = s.txs := by simp only [Txs.releaseHead, hc]
    rw [State.onTxs, hsame]
    exact .refl
  | cons h rest => exact State.keepsBounds_setSlot (h := h) (x := .free) (by simp only [Txs.releaseHead, hc]) nofun

theorem State.leavesPort_releaseMessage (s : State) : s.LeavesPort s.releaseMessage := by
  unfold State.releaseMessage
  split
  · exact .refl
  · refine State.LeavesPort.trans (State.leavesPort_onMst fun r hr => ?_) (State.leavesPort_grantAttempt _)
    unfold Mst.release at hr
    split at hr
    · exact hr
    next hd => exact hd ▸ List.mem_cons_of_mem _ hr

end

/-! ### Judgements and the end of a transaction -/

section
variable (s : State)

/-- What the port holds is none of the bounds. -/
theorem State.keepsBounds_onPort (f : Port → Port) : s.KeepsBounds (s.onHpt fun t => { t with port := f t.port }) :=
  ⟨id, id⟩

theorem State.leavesPort_acceptConfig (c : ConfigRecord) : s.LeavesPort (s.acceptConfig c) := s.leavesPort_onControl _

/-- START starts at score 0 (R148). -/
theorem State.leavesPort_startRun : s.LeavesPort s.startRun :=
  (((s.leavesPort_onControl _).trans (State.leavesPort_onHmn fun _ => Nat.zero_le _)).trans
    (State.leavesPort_onLiu _ _)).trans (State.leavesPort_startHello _)

theorem State.leavesPort_beginLeaving : s.LeavesPort s.beginLeaving := by
  rw [State.beginLeaving_eq]
  have hwithdrawn : s.LeavesPort s.unstagedCancelled.withdrawAll :=
    (State.leavesPort_onTxs (Txs.messages_completeAll _ _ _)).trans (State.leavesPort_withdrawAll _)
  exact (((hwithdrawn.trans (State.leavesPort_holdoff _ _)).trans (State.leavesPort_onControl _ _)).trans
    (State.leavesPort_onPen _ _)).trans (State.leavesPort_onControl _ _)

/-- The soft reset clears the notices, the slots and the delivery queue, and keeps counters and drop count (R154). -/
theorem State.keepsBounds_softReset : s.KeepsBounds s.softReset where
  bounds := fun ⟨_, hcounters, hdrops, _⟩ => ⟨Nat.zero_le _, hcounters, hdrops, Nat.zero_le _⟩
  messages := fun _ => by
    have hfree : ∀ h, s.softReset.txs.slot h = .free := fun h => by simp [Txs.slot, State.softReset, Txs.cleared]
    refine ⟨fun h m hm => ?_, nofun⟩
    rw [hfree] at hm
    cases hm

/-- What a judgement does before its answer is fixed, RESET and READ_COUNTERS apart: none of it is the port's. -/
theorem State.leavesPort_judgementOf {c : HostCommand} (hreset : c ≠ .reset) (hcounters : c ≠ .readCounters)
    (params : List Byte) : s.LeavesPort (judgementOf c params s).1 := by
  cases c with
  | configure =>
    simp only [judgementOf, judgeConfigure]
    split
    · split
      · exact .refl
      · exact s.leavesPort_acceptConfig _
    · exact .refl
  | start =>
    simp only [judgementOf, judgeStart]
    split
    · exact s.leavesPort_startRun
    · exact .refl
  | leave =>
    simp only [judgementOf, judgeLeave]
    split
    · exact s.leavesPort_beginLeaving
    · exact .refl
  | reset => exact absurd rfl hreset
  | submit =>
    simp only [judgementOf, judgeSubmit]
    split
    · exact .refl
    next hc => exact ⟨State.keepsBounds_place hc, rfl⟩
  | cancel =>
    simp only [judgementOf, judgeCancel]
    split
    · exact .refl
    · split
      · exact State.leavesPort_onTxs (Txs.messages_complete _ _ _)
      · exact .refl
  | readMessage =>
    simp only [judgementOf, judgeReadMessage]
    split <;> exact .refl
  | readCompletion =>
    simp only [judgementOf, judgeReadCompletion]
    split <;> exact .refl
  | readNotice =>
    simp only [judgementOf, judgeReadNotice]
    split <;> exact .refl
  | readPeer =>
    simp only [judgementOf, judgeReadPeer]
    split <;> exact .refl
  | readStatus => exact .refl
  | readCounters => exact absurd rfl hcounters
  | unknown => exact .refl

theorem State.keepsBounds_judgementOf (c : HostCommand) (params : List Byte) :
    s.KeepsBounds (judgementOf c params s).1 := by
  by_cases hreset : c = .reset
  · subst hreset
    exact s.keepsBounds_softReset
  by_cases hcounters : c = .readCounters
  · subst hcounters
    exact s.keepsBounds_onPort fun p => { p with snapshot := some s.hpt.counters }
  · exact (s.leavesPort_judgementOf hreset hcounters params).toKeepsBounds

/-- A judgement leaves the bits of the port's byte and the level MISO keeps (R157). -/
theorem State.judgementOf_bits (c : HostCommand) (params : List Byte) :
    (judgementOf c params s).1.hpt.port.bits = s.hpt.port.bits
      ∧ (judgementOf c params s).1.hpt.port.held = s.hpt.port.held := by
  by_cases hreset : c = .reset
  · subst hreset
    exact ⟨rfl, rfl⟩
  by_cases hcounters : c = .readCounters
  · subst hcounters
    exact ⟨rfl, rfl⟩
  · rw [(s.leavesPort_judgementOf hreset hcounters params).port]
    exact ⟨rfl, rfl⟩

theorem State.keepsBounds_takeJudgement (c : HostCommand) (params : List Byte) :
    s.KeepsBounds (s.takeJudgement c params (judgementOf c)) :=
  (s.keepsBounds_judgementOf c params).trans
    (State.keepsBounds_onPort _ fun p => p.judged c params (judgementOf c params s).2)

theorem State.keepsBounds_runCommand (c : HostCommand) (params : List Byte) :
    s.KeepsBounds (s.runCommand c params (judgementOf c)) := by
  simp only [State.runCommand]
  split
  · exact s.keepsBounds_onPort fun p => p.awaitParams c params
  · exact (s.keepsBounds_takeJudgement c _).trans
      (State.keepsBounds_onPort _ fun p => p.clock (params.length - paramsNeeded c params))

theorem State.keepsBounds_takeParams (c : HostCommand) (params : List Byte) :
    s.KeepsBounds (s.takeParams c params) := by
  unfold State.takeParams
  split
  · exact s.keepsBounds_onPort fun p => p.awaitParams c params
  · exact s.keepsBounds_takeJudgement c params

theorem State.keepsBounds_clockByte (byte : Byte) : s.KeepsBounds (s.clockByte byte) := by
  unfold State.clockByte
  split
  · exact s.keepsBounds_takeParams _ _
  · split
    · exact .refl
    · exact s.keepsBounds_takeParams _ _
  · exact s.keepsBounds_onPort (Port.clock 1)
  · exact s.keepsBounds_onPort (Port.clock 1)
  · exact .refl
  · exact .refl

theorem State.keepsBounds_clockRise (mosi : Bool) : s.KeepsBounds (s.clockRise mosi) := by
  have hheld : ∀ (t : State) (held : Option Bool), t.KeepsBounds (t.withHeld held) := fun t held =>
    t.keepsBounds_onPort fun p => { p with held := held }
  have hbits : ∀ bits, s.KeepsBounds (s.withBits bits) := fun bits =>
    s.keepsBounds_onPort fun p => { p with bits := bits }
  refine State.KeepsBounds.trans ?_ (hheld _ _)
  split
  · exact hbits _
  · exact (hbits []).trans (State.keepsBounds_clockByte _ _)

/-- A counter that is reduced stays within its bound (R184). -/
theorem State.keepsBounds_subtractSnapshot : s.KeepsBounds (s.onHpt Hpt.subtractSnapshot) := by
  unfold State.onHpt Hpt.subtractSnapshot
  split
  · exact .refl
  next snap _ =>
    exact ⟨fun ⟨hscore, hcounters, hrest⟩ => ⟨hscore, Counters.reduceBy_le hcounters snap, hrest⟩, id⟩

theorem State.keepsBounds_endEffect : s.KeepsBounds s.endEffect := by
  simp only [State.endEffect]
  split
  · exact s.leavesPort_releaseMessage.toKeepsBounds
  split
  · exact State.keepsBounds_releaseHead
  split
  · exact ⟨fun ⟨hscore, hcounters, hdrops, hnotices⟩ =>
      ⟨hscore, hcounters, hdrops, (List.length_tail.trans_le (Nat.sub_le _ _)).trans hnotices⟩, id⟩
  split
  · exact s.keepsBounds_subtractSnapshot
  split
  · exact s.keepsBounds_onPort fun p => { p with aborted := false }
  · exact .refl

theorem State.keepsBounds_endTransaction : s.KeepsBounds s.endTransaction :=
  ((s.keepsBounds_onPort Port.clockRest).trans (State.keepsBounds_endEffect _)).trans
    (State.keepsBounds_onPort _ fun _ => .between .waiting _)

end

/-! ### The law of the port -/

/-- What a port holds between and within transactions (R157, R158, R160). -/
structure Port.Lawful (p : Port) : Prop where
  bits_le : p.bits.length ≤ 7
  closed : p.phase.selected = false → p.bits = [] ∧ p.held = none
  code : p.phase = .command → p.bits = [] → p.held = none
  parameters : p.phase = .parameters →
    p.count = p.params.length ∧ ∃ c, p.command = some c ∧ p.params.length < paramsNeeded c p.params
  answer : p.phase = .answer → p.count < p.answer.length

theorem State.portLaw_iff {s : State} : s.PortLaw ↔ s.hpt.port.Lawful :=
  ⟨fun ⟨h1, h2, h3, h4, h5⟩ => ⟨h1, h2, h3, h4, h5⟩, fun ⟨h1, h2, h3, h4, h5⟩ => ⟨h1, h2, h3, h4, h5⟩⟩

/-- Between two bytes: no bit of a byte is there and SCLK is low (R157). -/
def Port.BetweenBytes (p : Port) : Prop := p.bits = [] ∧ p.held = none

section
variable {p : Port}

theorem Port.betweenBytes_of_atByte (h : p.atByte = true) : p.BetweenBytes := by
  simpa [Port.atByte, Port.BetweenBytes] using h

/-- A port that is opened or closed holds nothing (R158, R164). -/
theorem Port.lawful_of_betweenBytes (h : p.BetweenBytes) (hparameters : p.phase ≠ .parameters)
    (hanswer : p.phase ≠ .answer) : p.Lawful where
  bits_le := by simp [h.1]
  closed _ := h
  code _ _ := h.2
  parameters hp := absurd hp hparameters
  answer hp := absurd hp hanswer

theorem Port.lawful_awaitParams (h : p.BetweenBytes) {c : HostCommand} {params : List Byte}
    (hshort : params.length < paramsNeeded c params) : (p.awaitParams c params).Lawful where
  bits_le := by simp [Port.awaitParams, h.1]
  closed _ := h
  code := nofun
  parameters _ := ⟨rfl, c, rfl, hshort⟩
  answer := nofun

/-- The answer has its status byte at least (R158). -/
theorem Port.lawful_judged (h : p.BetweenBytes) (c : HostCommand) (params : List Byte) (r : Reply) :
    (p.judged c params r).Lawful where
  bits_le := by simp [Port.judged, h.1]
  closed _ := h
  code := nofun
  parameters := nofun
  answer _ := Nat.succ_pos _

/-- Bytes clocked after the judgement end the answer or leave a byte due (R158). -/
theorem Port.Lawful.clock (h : p.Lawful) (hp : p.phase.judged = true) (n : Nat) : (p.clock n).Lawful := by
  unfold Port.clock
  split
  next hends => exact ⟨h.bits_le, nofun, nofun, nofun, nofun⟩
  next hdue =>
    refine ⟨h.bits_le, h.closed, h.code, fun hparameters => ?_, fun hanswer => ?_⟩
    · rw [hparameters] at hp
      cases hp
    · exact Nat.not_le.1 fun hle => hdue ⟨hanswer, hle⟩

end

/-! ### The port after each of its events -/

/-- The command's code byte has been taken, and CSn is still low (R158). -/
def PortPhase.pastCode (phase : PortPhase) : Prop := phase = .parameters ∨ phase.judged = true

theorem PortPhase.pastCode.selected {phase : PortPhase} (h : phase.pastCode) : phase.selected = true := by
  rcases h with rfl | h
  · rfl
  · revert h
    cases phase <;> decide

theorem PortPhase.pastCode.ne_command {phase : PortPhase} (h : phase.pastCode) : phase ≠ .command := by
  rintro rfl
  rcases h with h | h <;> cases h

theorem Port.clock_judged {p : Port} (h : p.phase.judged = true) (n : Nat) : (p.clock n).phase.judged = true := by
  unfold Port.clock
  split
  · rfl
  · exact h

section
variable {s : State}

section
variable (h : s.hpt.port.BetweenBytes) (c : HostCommand) (params : List Byte)
include h

/-- A judged command stands in ANSWER, with a byte of it due (R158, R162). -/
theorem State.lawful_takeJudgement :
    (s.takeJudgement c params (judgementOf c)).hpt.port.Lawful
      ∧ (s.takeJudgement c params (judgementOf c)).hpt.port.phase = .answer := by
  obtain ⟨hbits, hheld⟩ := s.judgementOf_bits c params
  exact ⟨Port.lawful_judged ⟨hbits.trans h.1, hheld.trans h.2⟩ c params _, rfl⟩

theorem State.portLaw_runCommand : (s.runCommand c params (judgementOf c)).PortLaw := by
  simp only [State.portLaw_iff, State.runCommand]
  split
  next hshort => exact Port.lawful_awaitParams h hshort
  next =>
    obtain ⟨hlawful, hanswer⟩ := State.lawful_takeJudgement h c (params.take (paramsNeeded c params))
    exact hlawful.clock (by rw [hanswer]; rfl) _

theorem State.lawful_takeParams :
    (s.takeParams c params).hpt.port.Lawful ∧ (s.takeParams c params).hpt.port.phase.pastCode := by
  unfold State.takeParams
  split
  next hshort => exact ⟨Port.lawful_awaitParams h hshort, .inl rfl⟩
  next =>
    obtain ⟨hlawful, hanswer⟩ := State.lawful_takeJudgement h c params
    exact ⟨hlawful, .inr (by rw [hanswer]; rfl)⟩

end

/-- A whole byte leaves the port lawful and past the code byte (R157, R158). -/
theorem State.lawful_clockByte (h : s.hpt.port.Lawful) (hb : s.hpt.port.BetweenBytes)
    (hs : s.hpt.port.phase.selected = true) (byte : Byte) :
    (s.clockByte byte).hpt.port.Lawful ∧ (s.clockByte byte).hpt.port.phase.pastCode := by
  have hclocked : s.hpt.port.phase.judged = true →
      (s.hpt.port.clock 1).Lawful ∧ (s.hpt.port.clock 1).phase.pastCode := fun hj =>
    ⟨h.clock hj 1, .inr (Port.clock_judged hj 1)⟩
  unfold State.clockByte
  split
  next => exact State.lawful_takeParams hb _ _
  next hphase =>
    split
    · exact ⟨h, .inl hphase⟩
    · exact State.lawful_takeParams hb _ _
  next hphase => exact hclocked (by rw [hphase]; rfl)
  next hphase => exact hclocked (by rw [hphase]; rfl)
  next hphase => rw [hphase] at hs; cases hs
  next hphase => rw [hphase] at hs; cases hs

theorem State.portLaw_clockByte (h : s.PortLaw) (hr : s.hpt.port.takesByte = true) (byte : Byte) :
    (s.clockByte byte).PortLaw := by
  simp only [Port.takesByte, Bool.and_eq_true] at hr
  exact State.portLaw_iff.2
    (State.lawful_clockByte (State.portLaw_iff.1 h) (Port.betweenBytes_of_atByte hr.2) hr.1 byte).1

/-- A rising edge adds a bit to an incomplete byte, or completes it (R157). -/
theorem State.portLaw_clockRise (h : s.PortLaw) (hr : s.hpt.port.takesRise = true) (mosi : Bool) :
    (s.clockRise mosi).PortLaw := by
  simp only [Port.takesRise, Bool.and_eq_true, Option.isNone_iff_eq_none] at hr
  obtain ⟨hselected, hlow⟩ := hr
  have h := State.portLaw_iff.1 h
  rw [State.portLaw_iff]
  simp only [State.clockRise]
  split
  next hbits =>
    exact ⟨Nat.le_of_lt_succ hbits, fun hs => absurd (hselected.symm.trans hs) (by decide),
      fun _ hnil => absurd hnil (by simp [State.withHeld, State.withBits]), h.parameters, h.answer⟩
  next =>
    have hempty : (s.withBits []).hpt.port.Lawful :=
      ⟨Nat.zero_le _, fun _ => ⟨rfl, hlow⟩, fun _ _ => hlow, h.parameters, h.answer⟩
    obtain ⟨hlawful, hpast⟩ :=
      State.lawful_clockByte hempty ⟨rfl, hlow⟩ hselected (byteOfLine (s.hpt.port.bits ++ [mosi]))
    exact ⟨hlawful.bits_le, fun hs => absurd (hpast.selected.symm.trans hs) (by decide),
      fun hc => absurd hc hpast.ne_command, hlawful.parameters, hlawful.answer⟩

theorem State.portLaw_clockFall (h : s.PortLaw) : s.clockFall.PortLaw :=
  have h := State.portLaw_iff.1 h
  State.portLaw_iff.2 ⟨h.bits_le, fun hs => ⟨(h.closed hs).1, rfl⟩, fun _ _ => rfl, h.parameters, h.answer⟩

theorem State.portLaw_closePort (s : State) (aborted : Bool) : (s.closePort aborted).PortLaw :=
  State.portLaw_iff.2 (Port.lawful_of_betweenBytes ⟨rfl, rfl⟩ nofun nofun)

theorem State.portLaw_startTransaction (s : State) : s.startTransaction.PortLaw :=
  State.portLaw_iff.2 (Port.lawful_of_betweenBytes ⟨rfl, rfl⟩ nofun nofun)

end

/-! ### Every event -/

/-- The bounds and the law of the port are kept. -/
structure State.KeepsHostLaws (s t : State) : Prop extends s.KeepsBounds t where
  port : s.PortLaw → t.PortLaw

section
variable {s t u : State}

theorem State.LeavesPort.keepsHostLaws (h : s.LeavesPort t) : s.KeepsHostLaws t :=
  ⟨h.toKeepsBounds, fun hs => State.portLaw_iff.2 (h.port ▸ State.portLaw_iff.1 hs)⟩

theorem State.KeepsHostLaws.trans (h : s.KeepsHostLaws t) (h' : t.KeepsHostLaws u) : s.KeepsHostLaws u :=
  ⟨h.toKeepsBounds.trans h'.toKeepsBounds, h'.port ∘ h.port⟩

/-- The values after a reset are within every bound, and the port holds nothing (R142). -/
theorem State.keepsHostLaws_initial (s : State) (own : Address) {phase : PortPhase} (hp : phase.selected = false)
    (low : Bool) (pending : List Instr) (inputs : List Input) :
    s.KeepsHostLaws { State.initial own phase with inReset := low, pending := pending, inputs := inputs } := by
  have hfree : ∀ h, (State.initial own phase).txs.slot h = .free := fun h => by
    simp [Txs.slot, State.initial, Txs.cleared]
  have hcounters : ∀ n ∈ Counters.zero.toList, n ≤ 65535 := by decide
  refine ⟨⟨fun _ => ⟨Nat.zero_le _, hcounters, Nat.zero_le _, Nat.zero_le _⟩, fun _ => ⟨fun h m hm => ?_, nofun⟩⟩,
    fun _ => ?_⟩
  · have hm : m ∈ ((State.initial own phase).txs.slot h).message := hm
    rw [hfree] at hm
    cases hm
  · refine State.portLaw_iff.2 (Port.lawful_of_betweenBytes ⟨rfl, rfl⟩ ?_ ?_) <;> rintro rfl <;> cases hp

/-- An event keeps what its effect keeps. -/
theorem event_keepsHostLaws {r : Result} {reaches : State → Bool} {effect : State → State}
    (hr : r = event reaches effect s) (ht : r = .next t) (h : reaches s = true → s.KeepsHostLaws (effect s)) :
    s.KeepsHostLaws t := by
  rcases event_cases (hr.symm.trans ht) with ⟨-, hreaches, rfl⟩ | ⟨-, rfl⟩
  · exact (h hreaches).trans (State.leavesPort_finish _).keepsHostLaws
  · exact State.LeavesPort.refl.keepsHostLaws

/-- A command code reaches the port between two bytes (R157, R158). -/
theorem State.keepsHostLaws_runCommand (h : s.takesCode = true) (c : HostCommand) (params : List Byte) :
    s.KeepsHostLaws (s.runCommand c params (judgementOf c)) :=
  ⟨s.keepsBounds_runCommand c params,
    fun _ => State.portLaw_runCommand (Port.betweenBytes_of_atByte (Bool.and_eq_true_iff.1 h).2) c params⟩

theorem State.keepsHostLaws_closePort (s : State) (aborted : Bool) : s.KeepsHostLaws (s.closePort aborted) :=
  ⟨s.keepsBounds_onPort fun _ => .between .waiting aborted, fun _ => s.portLaw_closePort aborted⟩

theorem exec_keepsHostLaws {c : Instr} (ht : exec c s = .next t) : s.KeepsHostLaws t := by
  have hcommand : ∀ (c : HostCommand) (params : List Byte),
      hostCommand c params (judgementOf c) s = .next t → s.KeepsHostLaws t := fun c params ht =>
    event_keepsHostLaws rfl ht fun h => State.keepsHostLaws_runCommand h c params
  cases c with
  | pinReset =>
    cases ht
    exact s.keepsHostLaws_initial 0 rfl true _ _
  | rstnRelease straps csnLow =>
    rw [exec_rstnRelease] at ht
    cases ht
    split
    · exact s.keepsHostLaws_initial straps (by cases csnLow <;> rfl) false _ _
    · exact State.LeavesPort.refl.keepsHostLaws
  | timeStampTick =>
    exact event_keepsHostLaws (exec_timeStampTick s) ht fun _ => State.LeavesPort.keepsHostLaws ⟨⟨id, id⟩, rfl⟩
  | transactionStart =>
    exact event_keepsHostLaws (exec_transactionStart s) ht fun _ =>
      ⟨s.keepsBounds_onPort (Port.begin s.summary), fun _ => s.portLaw_startTransaction⟩
  | transactionEnd =>
    exact event_keepsHostLaws (exec_transactionEnd s) ht fun _ =>
      ⟨s.keepsBounds_endTransaction, fun _ => State.portLaw_closePort _ _⟩
  | transactionCutShort =>
    exact event_keepsHostLaws (exec_transactionCutShort s) ht fun _ => s.keepsHostLaws_closePort true
  | configure params => exact hcommand .configure params ht
  | start => exact hcommand .start [] ht
  | leave => exact hcommand .leave [] ht
  | reset => exact hcommand .reset [] ht
  | submit params => exact hcommand .submit params ht
  | cancel handle => exact hcommand .cancel [handle] ht
  | readMessage => exact hcommand .readMessage [] ht
  | readCompletion => exact hcommand .readCompletion [] ht
  | readNotice => exact hcommand .readNotice [] ht
  | readPeer address => exact hcommand .readPeer [address] ht
  | readStatus => exact hcommand .readStatus [] ht
  | readCounters => exact hcommand .readCounters [] ht
  | unknownCommand code =>
    exact event_keepsHostLaws (exec_unknownCommand code s) ht fun h =>
      State.keepsHostLaws_runCommand (Bool.and_eq_true_iff.1 h).1 .unknown []
  | lineIdle =>
    exact event_keepsHostLaws (exec_lineIdle s) ht fun _ => (s.leavesPort_onLiu _).keepsHostLaws
  | contentionStarted =>
    exact event_keepsHostLaws (exec_contentionStarted s) ht fun _ => s.leavesPort_stage.keepsHostLaws
  | sentOk stagingFirst =>
    exact event_keepsHostLaws (exec_sentOk stagingFirst s) ht fun _ => (s.leavesPort_sentOk _).keepsHostLaws
  | lostContention bit =>
    exact event_keepsHostLaws (exec_lostContention bit s) ht fun _ => (s.leavesPort_loseContention _).keepsHostLaws
  | readbackFault element scoreFirst =>
    exact event_keepsHostLaws (exec_readbackFault element scoreFirst s) ht fun _ =>
      (s.leavesPort_readbackFault _ _).keepsHostLaws
  | checkError => exact event_keepsHostLaws (exec_checkError s) ht fun _ => s.leavesPort_checkError.keepsHostLaws
  | goodFrame order contention bytes =>
    exact event_keepsHostLaws (exec_goodFrame order contention bytes s) ht fun _ =>
      (s.leavesPort_receive _ _ _).keepsHostLaws
  | joinTimerExpiry p =>
    exact event_keepsHostLaws (exec_joinTimerExpiry p s) ht fun _ => (s.leavesPort_joinExpiry p).keepsHostLaws
  | silenceTimerExpiry p =>
    exact event_keepsHostLaws (exec_silenceTimerExpiry p s) ht fun _ => (s.leavesPort_losePeer p _).keepsHostLaws
  | ackTimerExpiry p =>
    exact event_keepsHostLaws (exec_ackTimerExpiry p s) ht fun _ => (s.leavesPort_ackExpiry p).keepsHostLaws
  | ackDelayExpiry p =>
    exact event_keepsHostLaws (exec_ackDelayExpiry p s) ht fun _ => (s.leavesPort_onPeer p _).keepsHostLaws
  | helloTimerExpiry =>
    exact event_keepsHostLaws (exec_helloTimerExpiry s) ht fun _ => s.leavesPort_startHello.keepsHostLaws
  | holdoffExpiry => exact event_keepsHostLaws (exec_holdoffExpiry s) ht fun _ => s.leavesPort_rejoin.keepsHostLaws
  | leaveLimitExpiry =>
    exact event_keepsHostLaws (exec_leaveLimitExpiry s) ht fun _ => (s.leavesPort_endLeaving true).keepsHostLaws
  | receptionStart =>
    exact event_keepsHostLaws (exec_receptionStart s) ht fun _ => (s.leavesPort_onLiu _).keepsHostLaws
  | chipSelectRiseAfterReset =>
    exact event_keepsHostLaws (exec_chipSelectRiseAfterReset s) ht fun _ => s.keepsHostLaws_closePort _

theorem takeInput_keepsHostLaws {i : Input} (ht : takeInput i s = .next t) : s.KeepsHostLaws t := by
  cases i with
  | bitTime recessive order =>
    exact event_keepsHostLaws (takeInput_bitTime recessive order s) ht fun _ =>
      (s.leavesPort_bitTime recessive order).keepsHostLaws
  | sclkRise mosi =>
    exact event_keepsHostLaws (takeInput_sclkRise mosi s) ht fun h =>
      ⟨s.keepsBounds_clockRise mosi, fun hs => State.portLaw_clockRise hs h mosi⟩
  | sclkFall =>
    exact event_keepsHostLaws (takeInput_sclkFall s) ht fun _ =>
      ⟨s.keepsBounds_onPort fun p => { p with held := none }, State.portLaw_clockFall⟩
  | mosiByte byte =>
    exact event_keepsHostLaws (takeInput_mosiByte byte s) ht fun h =>
      ⟨s.keepsBounds_clockByte byte, fun hs => State.portLaw_clockByte hs h byte⟩

/-- What waits is none of the laws. -/
theorem step_keepsHostLaws (ht : step s = .next t) : s.KeepsHostLaws t := by
  have hqueues : ∀ pending inputs, s.KeepsHostLaws { s with pending := pending, inputs := inputs } :=
    fun _ _ => ⟨⟨id, id⟩, id⟩
  unfold step at ht
  split at ht
  next c rest _ => exact (hqueues rest s.inputs).trans (exec_keepsHostLaws ht)
  next =>
    split at ht
    · cases ht
      exact State.LeavesPort.refl.keepsHostLaws
    next i rest _ => exact (hqueues s.pending rest).trans (takeInput_keepsHostLaws ht)

end

/-- Settles O52: every event keeps the bounds and the law of the port; and what raising a notice does. -/
theorem boundsAreKept : Obligations.BoundsAreKept :=
  ⟨fun _ _ ht => have h := step_keepsHostLaws ht; ⟨h.bounds, h.messages, h.port⟩,
    fun _ kind => ⟨fun h => State.raise_of_room h kind, fun h => State.raise_of_full h kind⟩⟩

end Sys2Proof.Machine
end

section
/-! PROOFS. The law of the slots over every step, and what the host does to the slots: SUBMIT and CANCEL (R93, R94, R95). -/

namespace Sys2Proof.Machine

/-- Settles O55: every change that an event is made of keeps the law of the slots. -/
theorem slotListsHoldEachSlotOnce : Obligations.SlotListsHoldEachSlotOnce :=
  fun _ _ hs ht => stepInvariant_slotLaw.step ht (fun _ _ => trivial) hs

/-! ### The fields of a SUBMIT (R93, R173) -/

theorem OpState.takesMessages_iff {o : OpState} : o.takesMessages = true ↔ o = .running ∨ o = .detached := by
  cases o <;> simp [OpState.takesMessages]

theorem stationOf_eq_some_iff {n : Nat} {p : Station} : stationOf n = some p ↔ n = p.val := by
  unfold stationOf
  split
  next h => simp [Fin.ext_iff]
  next h => simpa using fun e : n = p.val => h (e ▸ p.isLt)

theorem handleOf_eq_some_iff {n : Nat} {h : Handle} : handleOf n = some h ↔ n = h.val := by
  unfold handleOf
  split
  next hn => simp [Fin.ext_iff]
  next hn => simpa using fun e : n = h.val => hn (e ▸ h.isLt)

theorem handleOf_ofNat (h : Handle) : handleOf (BitVec.ofNat 8 h.val).toNat = some h :=
  handleOf_eq_some_iff.2 (by simp only [BitVec.toNat_ofNat]; omega)

theorem handleOf_none {n : Nat} (h : 23 < n) : handleOf n = none := dif_neg (by omega)

theorem stationAddress_toNat (p : Station) : (stationAddress p).toNat = p.val := by
  simp only [stationAddress, BitVec.toNat_ofNat]
  omega

/-- The 16-bit number of two bytes, high byte first (section 10.6). -/
theorem wordAt_eq (b : List Byte) (i : Nat) :
    wordAt b i = BitVec.ofNat 16 (256 * (byteAt b i).toNat + (byteAt b (i + 1)).toNat) := by
  simp only [wordAt, ← BitVec.toNat_inj, toNat_append_eq, BitVec.toNat_ofNat]
  omega

theorem submitPayloadBytes_of_le {length : Byte} (h : length.toNat ≤ 48) : submitPayloadBytes length = length.toNat :=
  if_pos h

/-- The parameters of a SUBMIT are complete with as many payload bytes as its length byte asks for (R160, R173). -/
theorem paramsNeeded_submit {b : List Byte} (h : b.length = 6 + submitPayloadBytes (byteAt b 5)) :
    b.length = paramsNeeded .submit b := by
  have hsix : ¬b.length < 6 := by omega
  rw [paramsNeeded, if_neg hsix, h]

/-! ### The lowest-numbered FREE slot (R94) -/

section
variable {t : Txs}

theorem Slot.isFree_iff {x : Slot} : x.isFree = true ↔ x = .free := by cases x <;> simp [Slot.isFree]

theorem Txs.lowestFree_eq_some {h : Handle} (hfree : t.slot h = .free) (hbelow : ∀ h' < h, t.slot h' ≠ .free) :
    t.lowestFree = some h := by
  refine List.find?_eq_some_iff_getElem.2 ⟨Slot.isFree_iff.2 hfree, h.val, by simp [handles], by simp [handles],
    fun j hj => ?_⟩
  have hbelow := hbelow ⟨j, by omega⟩ hj
  simpa [handles, ← Slot.isFree_iff] using hbelow

theorem Txs.lowestFree_eq_none (hfull : ∀ h, t.slot h ≠ .free) : t.lowestFree = none :=
  List.find?_eq_none.2 fun h _ hf => hfull h (Slot.isFree_iff.1 hf)

end

/-! ### SUBMIT (R93, R94) -/

theorem submitDestination_some {own : Address} {dest : Byte} {p : Station} (hp : dest.toNat = p.val)
    (hown : dest.toNat ≠ own.toNat) : submitDestination own dest = some p := by
  rw [submitDestination, if_neg hown, stationOf_eq_some_iff.2 hp]

theorem submitDestination_none {own : Address} {dest : Byte} (h : dest.toNat = own.toNat ∨ 31 ≤ dest.toNat) :
    submitDestination own dest = none := by
  unfold submitDestination
  split
  · rfl
  next hown => exact stationOf_none (by omega)

section
variable {s : State} {b : List Byte}

/-! The destination checks of a SUBMIT's bytes (R93 checks 4 and 5). -/

theorem State.submitTarget_group (h : (byteAt b 0).getLsbD 0 = true) :
    s.submitTarget (readSubmit b) = .ok (.group (byteAt b 1)) := by
  simp only [State.submitTarget, readSubmit, h, if_true]

theorem State.submitTarget_badDest (h : (byteAt b 0).getLsbD 0 = false)
    (hdest : (byteAt b 1).toNat = s.control.ownAddr.toNat ∨ 31 ≤ (byteAt b 1).toNat) :
    s.submitTarget (readSubmit b) = .error .badDest := by
  simp only [State.submitTarget, readSubmit, h, submitDestination_none hdest]
  rfl

section
variable {p : Station} (h : (byteAt b 0).getLsbD 0 = false) (hp : (byteAt b 1).toNat = p.val)
  (hown : (byteAt b 1).toNat ≠ s.control.ownAddr.toNat)
include h hp hown

theorem State.submitTarget_noPeer (hstate : (s.peer p).state = .absent ∨ (s.peer p).state = .lost) :
    s.submitTarget (readSubmit b) = .error .noPeer := by
  simp only [State.submitTarget, readSubmit, h, submitDestination_some hp hown, if_pos hstate]
  rfl

theorem State.submitTarget_data (hstate : ¬((s.peer p).state = .absent ∨ (s.peer p).state = .lost)) :
    s.submitTarget (readSubmit b) = .ok (.data p) := by
  simp only [State.submitTarget, readSubmit, h, submitDestination_some hp hown, if_neg hstate]
  rfl

end

/-- The checks before the destination pass: state, length and urgency (R93 checks 1 to 3). -/
structure State.SubmitPasses (s : State) (b : List Byte) : Prop where
  state : s.control.opState = .running ∨ s.control.opState = .detached
  length : (byteAt b 5).toNat ≤ 48
  urgency : 1 ≤ (byteAt b 2).toNat ∧ (byteAt b 2).toNat ≤ 3

theorem urgency_bad_iff {u : Byte} : u = 0 ∨ 3 < u.toNat ↔ u.toNat = 0 ∨ 3 < u.toNat := by
  rw [← BitVec.toNat_inj]
  rfl

/-! The checks of a SUBMIT's bytes, the first that fails giving the status (R93). -/

theorem State.submitCheck_wrongState (h : ¬(s.control.opState = .running ∨ s.control.opState = .detached)) :
    s.submitCheck (readSubmit b) = .error .wrongState := by
  rw [← OpState.takesMessages_iff, Bool.not_eq_true] at h
  exact if_pos h

section
variable (hstate : s.control.opState = .running ∨ s.control.opState = .detached)
include hstate

theorem State.submitCheck_badLength (h : 48 < (byteAt b 5).toNat) :
    s.submitCheck (readSubmit b) = .error .badLength := by
  have htakes := OpState.takesMessages_iff.2 hstate
  exact (if_neg (by simp [htakes])).trans (if_pos h)

theorem State.submitCheck_badUrgency (hlength : (byteAt b 5).toNat ≤ 48)
    (h : (byteAt b 2).toNat = 0 ∨ 3 < (byteAt b 2).toNat) : s.submitCheck (readSubmit b) = .error .badUrgency := by
  have htakes := OpState.takesMessages_iff.2 hstate
  exact ((if_neg (by simp [htakes])).trans (if_neg (Nat.not_lt.2 hlength))).trans (if_pos (urgency_bad_iff.2 h))

end

section
variable (h : s.SubmitPasses b)
include h

theorem State.SubmitPasses.checks :
    s.control.opState.takesMessages = true ∧ ¬Config.payloadMax < (readSubmit b).length.toNat
      ∧ ¬((readSubmit b).urgency = 0 ∨ 3 < (readSubmit b).urgency.toNat) := by
  obtain ⟨hlow, hhigh⟩ := h.urgency
  refine ⟨OpState.takesMessages_iff.2 h.state, Nat.not_lt.2 h.length, fun hbad => ?_⟩
  have hbad : (byteAt b 2).toNat = 0 ∨ 3 < (byteAt b 2).toNat := urgency_bad_iff.1 hbad
  omega

theorem State.SubmitPasses.badTarget {e : Status} (ht : s.submitTarget (readSubmit b) = .error e) :
    s.submitCheck (readSubmit b) = .error e := by
  obtain ⟨hstate, hlength, hurgency⟩ := h.checks
  simp only [State.submitCheck, hstate, hlength, hurgency, ht]
  rfl

theorem State.SubmitPasses.full {target : Target} (ht : s.submitTarget (readSubmit b) = .ok target)
    (hf : s.txs.lowestFree = none) : s.submitCheck (readSubmit b) = .error .full := by
  obtain ⟨hstate, hlength, hurgency⟩ := h.checks
  simp only [State.submitCheck, hstate, hlength, hurgency, ht, hf]
  rfl

theorem State.SubmitPasses.ok {target : Target} {k : Handle} (ht : s.submitTarget (readSubmit b) = .ok target)
    (hf : s.txs.lowestFree = some k) : s.submitCheck (readSubmit b) = .ok (k, target) := by
  obtain ⟨hstate, hlength, hurgency⟩ := h.checks
  simp only [State.submitCheck, hstate, hlength, hurgency, ht, hf]
  rfl

end

/-- The refusal of a SUBMIT changes nothing but the answer (R93). -/
theorem submit_refused {status : Status} (hs : s.TakesCommand) (hb : b.length = 6 + submitPayloadBytes (byteAt b 5))
    (hc : s.submitCheck (readSubmit b) = .error status) : Leaves (.submit b) s (s.answered .submit b status []) :=
  hostCommand_leaves (exec_submit b s) hs (paramsNeeded_submit hb) (by simp only [judgeSubmit, hc, Reply.bare])

theorem submit_accepted {h : Handle} {target : Target} (hs : s.TakesCommand)
    (hb : b.length = 6 + submitPayloadBytes (byteAt b 5)) (hc : s.submitCheck (readSubmit b) = .ok (h, target)) :
    Leaves (.submit b) s
      ((s.onTxs (Txs.place h ((readSubmit b).message target))).answered .submit b .ok [byteOf h.val]) :=
  hostCommand_leaves (exec_submit b s) hs (paramsNeeded_submit hb) (by simp only [judgeSubmit, hc])

end

/-- The message that a SUBMIT's bytes spell (R94, R173). -/
theorem readSubmit_message {b : List Byte} (hb : b.length = 6 + (byteAt b 5).toNat) (hlength : (byteAt b 5).toNat ≤ 48)
    (target : Target) :
    (readSubmit b).message target
      = { target := target, urgency := (byteAt b 2).setWidth 2
          cookie := BitVec.ofNat 16 (256 * (byteAt b 3).toNat + (byteAt b 4).toNat), payload := b.drop 6 } := by
  have hpayload : (b.drop 6).take (submitPayloadBytes (byteAt b 5)) = b.drop 6 := by
    refine List.take_of_length_le ?_
    rw [submitPayloadBytes_of_le hlength, List.length_drop]
    omega
  simp only [SubmitParams.message, readSubmit, wordAt_eq, hpayload]

/-- Settles O17: the checks pass, and the message takes the lowest-numbered FREE slot. -/
theorem submitTakesLowestFreeSlot : Obligations.SubmitTakesLowestFreeSlot := by
  intro s b target h hs hstate hb hlength hlow hhigh htarget hfree hbelow
  have hpasses : s.SubmitPasses b := ⟨hstate, hlength, hlow, hhigh⟩
  have hdest : s.submitTarget (readSubmit b) = .ok target := by
    rcases htarget with ⟨hgroup, rfl⟩ | ⟨hdata, p, rfl, hp, hown, hpresent⟩
    · exact State.submitTarget_group hgroup
    · have hne : (byteAt b 1).toNat ≠ s.control.ownAddr.toNat := fun e =>
        hown (BitVec.eq_of_toNat_eq (by rw [stationAddress_toNat, ← hp, e]))
      exact State.submitTarget_data hdata hp hne (not_or.2 hpresent)
  have hcheck := hpasses.ok hdest (Txs.lowestFree_eq_some hfree hbelow)
  rw [← readSubmit_message hb hlength]
  exact submit_accepted hs (by rwa [submitPayloadBytes_of_le hlength]) hcheck

/-- Settles O18: each check that fails first, in the order of the checks. -/
theorem submitIsRefusedByFirstFailingCheck : Obligations.SubmitIsRefusedByFirstFailingCheck := by
  intro s b status hs hb data wrongState badLength badUrgency badDest noPeer full hstatus
  refine submit_refused hs hb ?_
  have hstate : ¬wrongState → s.control.opState = .running ∨ s.control.opState = .detached := fun h => by tauto
  have hpasses : ¬wrongState → ¬badLength → ¬badUrgency → s.SubmitPasses b := fun hw hl hu =>
    ⟨hstate hw, Nat.not_lt.1 hl, by omega⟩
  rcases hstatus with ⟨hw, rfl⟩ | ⟨hw, hl, rfl⟩ | ⟨hw, hl, hu, rfl⟩ | ⟨hw, hl, hu, ⟨hdata, hd⟩, rfl⟩
    | ⟨hw, hl, hu, hd, ⟨hdata, p, hp, habsent⟩, rfl⟩ | ⟨hw, hl, hu, hd, hp, hf, rfl⟩
  · exact State.submitCheck_wrongState (not_or.2 hw)
  · exact State.submitCheck_badLength (hstate hw) hl
  · exact State.submitCheck_badUrgency (hstate hw) (Nat.not_lt.1 hl) hu
  · exact (hpasses hw hl hu).badTarget (State.submitTarget_badDest hdata hd)
  · exact (hpasses hw hl hu).badTarget (State.submitTarget_noPeer hdata hp (fun e => hd ⟨hdata, .inl e⟩) habsent)
  · obtain ⟨target, htarget⟩ : ∃ target, s.submitTarget (readSubmit b) = .ok target := by
      cases hg : (byteAt b 0).getLsbD 0 with
      | true => exact ⟨_, State.submitTarget_group hg⟩
      | false =>
        have hd := not_or.1 fun h => hd ⟨hg, h⟩
        have hstation : (byteAt b 1).toNat = (⟨(byteAt b 1).toNat, Nat.not_le.1 hd.2⟩ : Station).val := rfl
        exact ⟨_, State.submitTarget_data hg hstation hd.1 fun h => hp ⟨hg, _, hstation, h⟩⟩
    exact (hpasses hw hl hu).full htarget (Txs.lowestFree_eq_none hf)

/-! ### CANCEL (R95) -/

section
variable {s : State}

/-- A CANCEL that is refused changes nothing but the answer (R95). -/
theorem cancel_refused {h : Handle} {status : Status} (hs : s.TakesCommand) (hstatus : s.txs.cancelStatus h = status)
    (hno : status ≠ .ok) :
    Leaves (.cancel (BitVec.ofNat 8 h.val)) s (s.answered .cancel [BitVec.ofNat 8 h.val] status []) := by
  subst hstatus
  refine hostCommand_leaves (exec_cancel _ s) hs rfl ?_
  have hhandle : handleOf (byteAt [BitVec.ofNat 8 h.val] 0).toNat = some h := handleOf_ofNat h
  simp only [judgeCancel, hhandle, if_neg hno, Reply.bare]

/-- A QUEUED slot that is not staged completes CANCELLED (R92, R95). -/
theorem Txs.complete_queued {t : Txs} {h : Handle} {m : Message} (o : SlotOutcome) (hm : t.slot h = .queued m) :
    t.complete o h
      = { t with slots := t.slots.set h (.complete m none o), order := t.order.erase h
                 completions := t.completions ++ [h] } := by
  rw [t.complete_open o (by rw [hm]; rfl), hm]
  rfl

end

/-- Settles O19: each state of the slot, staged or not, and the handles above 23. -/
theorem cancelCompletesOnlyUnstagedQueued : Obligations.CancelCompletesOnlyUnstagedQueued := by
  refine ⟨fun s h hs => ⟨fun m hm hstaged => ?_, fun m hm hstaged => ?_, fun m q marked hm => ?_, fun hclosed => ?_⟩,
    fun s handle hs hhandle => ?_⟩
  · refine hostCommand_leaves (exec_cancel _ s) hs rfl ?_
    have hhandle : handleOf (byteAt [BitVec.ofNat 8 h.val] 0).toNat = some h := handleOf_ofNat h
    have hok : s.txs.cancelStatus h = .ok := by simp only [Txs.cancelStatus, hm, if_neg hstaged]
    simp only [judgeCancel, hhandle, if_pos hok, Reply.bare, State.onTxs, Txs.complete_queued .cancelled hm]
  · exact cancel_refused hs (by simp only [Txs.cancelStatus, hm, if_pos hstaged]) nofun
  · exact cancel_refused hs (by simp only [Txs.cancelStatus, hm]) nofun
  · refine cancel_refused hs ?_ nofun
    cases hx : s.txs.slot h <;> simp_all [Txs.cancelStatus, Slot.isOpen]
  · refine hostCommand_leaves (exec_cancel _ s) hs rfl ?_
    have hnone : handleOf (byteAt [handle] 0).toNat = none := handleOf_none hhandle
    simp only [judgeCancel, hnone, Reply.bare]

end Sys2Proof.Machine
end

section
/-! PROOFS. What is on offer to the choice, and that the choice looks for each candidate on offer (R99, R100, R101). -/

namespace Sys2Proof.Machine

/-! ### The first and the least of the submission order list -/

section
variable {l : List Handle} {P : Handle → Bool}

/-- The search through a part of the list stops at the element of that part that stands first in the list. -/
theorem findSome?_filter_first {f : Handle → Option Candidate} {c : Candidate}
    (h : (l.filter P).findSome? f = some c) :
    ∃ k ∈ l, P k = true ∧ f k = some c ∧ ∀ k' ∈ l, P k' = true → f k' ≠ none → l.idxOf k ≤ l.idxOf k' := by
  induction l with
  | nil => cases h
  | cons a r ih =>
    by_cases ha : P a = true ∧ f a ≠ none
    · obtain ⟨hP, hf⟩ := ha
      obtain ⟨c', hc'⟩ := Option.ne_none_iff_exists'.1 hf
      rw [List.filter_cons_of_pos hP, List.findSome?_cons, hc'] at h
      exact ⟨a, List.mem_cons_self, hP, hc'.trans h, fun k' _ _ _ => by simp⟩
    · have hrest : (r.filter P).findSome? f = some c := by
        by_cases hP : P a = true
        · rw [List.filter_cons_of_pos hP, List.findSome?_cons, not_not.1 fun hf => ha ⟨hP, hf⟩] at h
          exact h
        · rwa [List.filter_cons_of_neg hP] at h
      have hne : ∀ k, P k = true → f k ≠ none → a ≠ k := fun k hP hf e => ha (e ▸ ⟨hP, hf⟩)
      obtain ⟨k, hk, hP, hf, hfirst⟩ := ih hrest
      have hka := hne k hP (by simp [hf])
      refine ⟨k, List.mem_cons_of_mem _ hk, hP, hf, fun k' hk' hP' hf' => ?_⟩
      have hka' := hne k' hP' hf'
      have hk' := (List.mem_cons.1 hk').resolve_left hka'.symm
      rw [List.idxOf_cons_ne _ hka, List.idxOf_cons_ne _ hka']
      exact Nat.succ_le_succ (hfirst k' hk' hP' hf')

theorem leastBy_eq_none {key : Handle → Nat} (h : leastBy key l = none) : l = [] := by
  cases l with
  | nil => rfl
  | cons a r =>
    unfold leastBy at h
    split at h
    · cases h
    · split at h <;> cases h

/-- The least of a part of the list by key, and among equals the one that stands first in the list. -/
theorem leastBy_filter {key : Handle → Nat} {k : Handle} (h : leastBy key (l.filter P) = some k) :
    k ∈ l ∧ P k = true
      ∧ ∀ k' ∈ l, P k' = true → key k < key k' ∨ key k = key k' ∧ l.idxOf k ≤ l.idxOf k' := by
  induction l generalizing k with
  | nil => cases h
  | cons a r ih =>
    by_cases hP : P a = true
    · rw [List.filter_cons_of_pos hP, leastBy] at h
      have hfirst : ∀ k', (a :: r).idxOf a ≤ (a :: r).idxOf k' := fun k' => by simp
      split at h
      next hnone =>
        cases h
        refine ⟨List.mem_cons_self, hP, fun k' hk' hP' => ?_⟩
        rcases List.mem_cons.1 hk' with rfl | hk'
        · exact .inr ⟨rfl, le_refl _⟩
        · have hmem := List.mem_filter.2 ⟨hk', hP'⟩
          rw [leastBy_eq_none hnone] at hmem
          cases hmem
      next m hm =>
        obtain ⟨hmr, hmP, hleast⟩ := ih hm
        split at h
        next hle =>
          cases h
          refine ⟨List.mem_cons_self, hP, fun k' hk' hP' => ?_⟩
          have hkey : key a ≤ key k' := by
            rcases List.mem_cons.1 hk' with rfl | hk'
            · exact le_refl _
            · have := hleast k' hk' hP'
              omega
          exact hkey.lt_or_eq.imp_right fun e => ⟨e, hfirst k'⟩
        next hlt =>
          cases h
          have ham : a ≠ k := by
            rintro rfl
            exact hlt (le_refl _)
          refine ⟨List.mem_cons_of_mem _ hmr, hmP, fun k' hk' hP' => ?_⟩
          by_cases hak : a = k'
          · subst hak
            exact .inl (Nat.not_le.1 hlt)
          · have hk' := (List.mem_cons.1 hk').resolve_left (Ne.symm hak)
            rw [List.idxOf_cons_ne _ ham, List.idxOf_cons_ne _ hak]
            exact (hleast k' hk' hP').imp_right (And.imp_right Nat.succ_le_succ)
    · rw [List.filter_cons_of_neg hP] at h
      obtain ⟨hkr, hkP, hleast⟩ := ih h
      have hne : ∀ k, P k = true → a ≠ k := fun k hk e => hP (e ▸ hk)
      refine ⟨List.mem_cons_of_mem _ hkr, hkP, fun k' hk' hP' => ?_⟩
      have hk' := (List.mem_cons.1 hk').resolve_left (hne k' hP').symm
      rw [List.idxOf_cons_ne _ (hne k hkP), List.idxOf_cons_ne _ (hne k' hP')]
      exact (hleast k' hk' hP').imp_right (And.imp_right Nat.succ_le_succ)

end

/-! ### The DATA candidate of a peer (R64, R100) -/

theorem State.mayStartMessages_iff {s : State} :
    s.mayStartMessages = true ↔ s.isRunning = true ∧ s.hmn.level = .sound := by
  simp only [State.mayStartMessages, Bool.and_eq_true, beq_iff_eq]

theorem Slot.isSentTo_of_isMarkedFor {x : Slot} {p : Station} (h : x.isMarkedFor p = true) : x.isSentTo p = true := by
  cases x <;> simp_all [Slot.isMarkedFor, Slot.isSentTo]

/-- The marked slot taken first bears the least of the marked seqs, read upward from the oldest (R64, R100). -/
theorem Txs.firstMarked_some {t : Txs} {p : Station} {oldest : Seq} {h : Handle} (ht : t.SlotLaw)
    (hfirst : t.firstMarked p oldest = some h) :
    (t.slot h).isMarkedFor p = true
      ∧ ∀ h' q q', (t.slot h').isMarkedFor p = true → (t.slot h).isSentAs p q = true → (t.slot h').isSentAs p q' = true →
          (q - oldest).toNat ≤ (q' - oldest).toNat := by
  refine ⟨List.find?_some (p := fun h => (t.slot h).isMarkedFor p) hfirst, fun h' q q' hmarked hq hq' => ?_⟩
  rw [Txs.firstMarked, Txs.sentInSequence, List.find?_flatMap] at hfirst
  obtain ⟨below, k, above, hrange, hk, hbelow⟩ := List.findSome?_eq_some_iff.1 hfirst
  have hsent : (t.slot h).isSentAs p (oldest + BitVec.ofNat 6 k) = true :=
    (List.mem_filter.1 (List.mem_of_find?_eq_some hk)).2
  obtain rfl := Slot.isSentAs_inj hq hsent
  have hk64 : k < 64 := List.mem_range.1 (hrange ▸ by simp)
  have hdistance : (oldest + BitVec.ofNat 6 k - oldest).toNat = k := by
    rw [add_sub_cancel_left, BitVec.toNat_ofNat]
    omega
  rw [hdistance]
  by_contra hlt
  have hmem : (q' - oldest).toNat ∈ below := by
    have hin : (q' - oldest).toNat ∈ below ++ k :: above := hrange ▸ List.mem_range.2 (q' - oldest).isLt
    have hsorted : (below ++ k :: above).Pairwise (· < ·) := hrange ▸ List.pairwise_lt_range
    rcases List.mem_append.1 hin with hin | hin
    · exact hin
    · rcases List.mem_cons.1 hin with e | hin
      · omega
      · have := (List.pairwise_cons.1 (List.pairwise_append.1 hsorted).2.1).1 _ hin
        omega
  have hseq : oldest + BitVec.ofNat 6 (q' - oldest).toNat = q' := by
    rw [BitVec.ofNat_toNat]
    simp
  have hnone := List.find?_eq_none.1 (hbelow _ hmem) h'
    (List.mem_filter.2 ⟨ht.mem_order (Slot.isOpen_of_isSentAs hq'), hseq.symm ▸ hq'⟩)
  exact hnone hmarked

theorem Txs.firstMarked_eq_none_iff {t : Txs} {p : Station} {oldest : Seq} (ht : t.SlotLaw) :
    t.firstMarked p oldest = none ↔ ∀ h, (t.slot h).isMarkedFor p = false := by
  simp only [Txs.firstMarked, List.find?_eq_none, Bool.not_eq_true]
  refine ⟨fun h k => ?_, fun h k _ => h k⟩
  by_contra hmarked
  have hmarked : (t.slot k).isMarkedFor p = true := by simpa using hmarked
  have hsent := Slot.isSentTo_of_isMarkedFor hmarked
  have := h k (Txs.mem_sentInSequence_all.2 ⟨ht.mem_order (Slot.isOpen_of_isSentTo hsent), hsent⟩)
  rw [hmarked] at this
  cases this

/-- No two slots of a peer bear one seq (R48). -/
theorem State.WindowLaw.sentAs_inj {s : State} (hs : s.WindowLaw) {p : Station} {q : Seq} {h h' : Handle}
    (hh : (s.txs.slot h).isSentAs p q = true) (hh' : (s.txs.slot h').isSentAs p q = true) : h = h' := by
  have hcount := hs.count p q
  have hle : (handles.filter fun k => (s.txs.slot k).isSentAs p q).length ≤ 1 := by
    rw [hcount]
    split <;> omega
  have hmem : ∀ {k}, (s.txs.slot k).isSentAs p q = true → k ∈ handles.filter fun k => (s.txs.slot k).isSentAs p q :=
    fun hk => List.mem_filter.2 ⟨List.mem_finRange _, hk⟩
  rcases hlist : handles.filter fun k => (s.txs.slot k).isSentAs p q with _ | ⟨a, _ | ⟨b, rest⟩⟩
  · exact absurd (hlist ▸ hmem hh) (by simp)
  · have h1 := List.mem_singleton.1 (hlist ▸ hmem hh)
    have h2 := List.mem_singleton.1 (hlist ▸ hmem hh')
    exact h1.trans h2.symm
  · rw [hlist] at hle
    simp at hle

section
variable {s : State} (hslots : s.txs.SlotLaw)
include hslots

/-- The QUEUED DATA slot that goes first: the least urgency value, and the oldest of those (R100). -/
theorem State.nextToSend_some {p : Station} {h : Handle} (hh : s.txs.nextToSend p = some h) :
    (s.txs.slot h).isQueuedTo p = true
      ∧ ∀ h', (s.txs.slot h').isQueuedTo p = true →
          (s.txs.slot h).urgency.toNat < (s.txs.slot h').urgency.toNat
            ∨ (s.txs.slot h).urgency = (s.txs.slot h').urgency ∧ s.txs.order.idxOf h ≤ s.txs.order.idxOf h' := by
  obtain ⟨-, hq, hleast⟩ := leastBy_filter hh
  refine ⟨hq, fun h' hq' => ?_⟩
  rw [← BitVec.toNat_inj]
  exact hleast h' (hslots.mem_order (Slot.isOpen_of_isQueuedTo hq')) hq'

theorem State.nextToSend_ne_none {p : Station} {h : Handle} (hq : (s.txs.slot h).isQueuedTo p = true) :
    s.txs.nextToSend p ≠ none := fun hnone => by
  have hmem : h ∈ s.txs.queuedFor p := List.mem_filter.2 ⟨hslots.mem_order (Slot.isOpen_of_isQueuedTo hq), hq⟩
  rw [leastBy_eq_none hnone] at hmem
  cases hmem

/-- A peer's DATA candidate is on offer (R100). -/
theorem State.offers_of_dataCandidate {p : Station} {c : Candidate} (hc : s.dataCandidate p = some c) : s.Offers c := by
  simp only [State.dataCandidate] at hc
  split at hc
  next hmay =>
    simp only [Bool.and_eq_true, State.mayStartMessages_iff, beq_iff_eq] at hmay
    obtain ⟨⟨hrunning, hsound⟩, hlinked⟩ := hmay
    split at hc
    next h hfirst =>
      cases hc
      exact ⟨hrunning, hsound, hlinked, Txs.firstMarked_some hslots hfirst⟩
    next hnone =>
      split at hc
      next hcredit =>
        obtain ⟨h, hh, rfl⟩ := Option.map_eq_some_iff.1 hc
        obtain ⟨hq, hleast⟩ := State.nextToSend_some hslots hh
        exact ⟨hrunning, hsound, hlinked, hcredit, (Txs.firstMarked_eq_none_iff hslots).1 hnone, hq, hleast⟩
      next => cases hc
  next => cases hc

/-- A resend on offer is its peer's DATA candidate: no other slot bears its seq (R48, R100). -/
theorem State.dataCandidate_of_resend (hwindow : s.WindowLaw) {p : Station} {h : Handle}
    (ho : s.Offers (.resend h p)) : s.dataCandidate p = some (.resend h p) := by
  obtain ⟨hrunning, hsound, hlinked, hmarked, hleast⟩ := ho
  have hmay : (s.mayStartMessages && (s.peer p).state == .linked) = true := by
    rw [State.mayStartMessages_iff.2 ⟨hrunning, hsound⟩, hlinked]
    rfl
  cases hfirst : s.txs.firstMarked p (s.peer p).oldestUnacked with
  | none =>
    have := (Txs.firstMarked_eq_none_iff hslots).1 hfirst h
    rw [hmarked] at this
    cases this
  | some h' =>
    obtain ⟨hmarked', hleast'⟩ := Txs.firstMarked_some hslots hfirst
    obtain ⟨q, hq⟩ := Slot.isSentTo_iff.1 (Slot.isSentTo_of_isMarkedFor hmarked)
    obtain ⟨q', hq'⟩ := Slot.isSentTo_iff.1 (Slot.isSentTo_of_isMarkedFor hmarked')
    have hsame : q = q' := by
      have hdistance := (hleast h' q q' hmarked' hq hq').antisymm (hleast' h q' q hmarked hq' hq)
      exact sub_left_injective (BitVec.toNat_inj.1 hdistance)
    obtain rfl := hwindow.sentAs_inj hq (hsame ▸ hq')
    simp only [State.dataCandidate, hmay, if_true, hfirst]

/-- A first send on offer is its peer's DATA candidate: no two slots stand at one place of the list (R91, R100). -/
theorem State.dataCandidate_of_firstSend {p : Station} {h : Handle} (ho : s.Offers (.firstSend h p)) :
    s.dataCandidate p = some (.firstSend h p) := by
  obtain ⟨hrunning, hsound, hlinked, hcredit, hnone, hq, hleast⟩ := ho
  have hmay : (s.mayStartMessages && (s.peer p).state == .linked) = true := by
    rw [State.mayStartMessages_iff.2 ⟨hrunning, hsound⟩, hlinked]
    rfl
  obtain ⟨h', hh'⟩ := Option.ne_none_iff_exists'.1 (State.nextToSend_ne_none hslots hq)
  obtain ⟨hq', hleast'⟩ := State.nextToSend_some hslots hh'
  have hidx : s.txs.order.idxOf h = s.txs.order.idxOf h' := by
    rcases hleast h' hq' with h1 | ⟨h1, h2⟩ <;> rcases hleast' h hq with h3 | ⟨h3, h4⟩
    · omega
    · rw [h3] at h1
      omega
    · rw [h1] at h3
      omega
    · omega
  obtain rfl := (List.idxOf_inj (hslots.mem_order (Slot.isOpen_of_isQueuedTo hq))).1 hidx
  simp only [State.dataCandidate, hmay, if_true, (Txs.firstMarked_eq_none_iff hslots).2 hnone, if_pos hcredit, hh']
  rfl

/-! ### Each candidate, where the choice looks for it -/

theorem State.resendOf_iff (hwindow : s.WindowLaw) {h : Handle} {c : Candidate} :
    s.resendOf h = some c ↔ ∃ p, c = .resend h p ∧ s.Offers c := by
  constructor
  · intro hc
    unfold State.resendOf at hc
    split at hc
    · split at hc
      · split at hc
        next hd =>
          cases hc
          exact ⟨_, rfl, State.offers_of_dataCandidate hslots hd⟩
        next => cases hc
      · cases hc
    · cases hc
  · rintro ⟨p, rfl, ho⟩
    have hd := State.dataCandidate_of_resend hslots hwindow ho
    obtain ⟨m, q, hm, htarget⟩ := Slot.isMarkedFor_iff.1 ho.2.2.2.1
    simp only [State.resendOf, hm, htarget, hd, if_true]

theorem State.messageOf_iff {h : Handle} {c : Candidate} :
    s.messageOf h = some c ↔ ((∃ p, c = .firstSend h p) ∨ c = .group h) ∧ s.Offers c := by
  constructor
  · intro hc
    unfold State.messageOf at hc
    split at hc
    next m hm =>
      split at hc
      · split at hc
        next hd =>
          cases hc
          exact ⟨.inl ⟨_, rfl⟩, State.offers_of_dataCandidate hslots hd⟩
        next => cases hc
      next tag htag =>
        split at hc
        next hmay =>
          cases hc
          simp only [Bool.and_eq_true, State.mayStartMessages_iff, bne_iff_ne] at hmay
          exact ⟨.inr rfl, hmay.1.1, hmay.1.2, hmay.2, m, tag, hm, htag⟩
        next => cases hc
    · cases hc
  · rintro ⟨⟨p, rfl⟩ | rfl, ho⟩
    · have hd := State.dataCandidate_of_firstSend hslots ho
      obtain ⟨m, hm, htarget⟩ : ∃ m, s.txs.slot h = .queued m ∧ m.target = .data p := by
        have hq := ho.2.2.2.2.2.1
        cases hx : s.txs.slot h <;> simp_all [Slot.isQueuedTo]
      simp only [State.messageOf, hm, htarget, hd, if_true]
    · obtain ⟨hrunning, hsound, hstaged, m, tag, hm, htag⟩ := ho
      have hmay : (s.mayStartMessages && s.txs.stagedHandle != some h) = true := by
        simp [State.mayStartMessages_iff.2 ⟨hrunning, hsound⟩, hstaged]
      simp only [State.messageOf, hm, htag, hmay, if_true]

end

theorem State.controlOffered_iff {s : State} {k : ControlKind} {p : Station} :
    s.controlOffered k p = true ↔ s.Offers (.control k p) := by
  cases k <;>
    simp only [State.controlOffered, State.Offers, Bool.and_eq_true, State.mayStartMessages_iff, beq_iff_eq, and_assoc]

theorem State.helloOffered_iff {s : State} : s.helloOffered = true ↔ s.Offers .hello := by
  simp only [State.helloOffered, State.Offers, Bool.and_eq_true]

theorem State.leavingHelloOffered_iff {s : State} : s.leavingHelloOffered = true ↔ s.Offers .leavingHello := by
  simp only [State.leavingHelloOffered, State.Offers, Bool.and_eq_true, beq_iff_eq]

/-! ### What is chosen is on offer -/

section
variable {s : State} (hslots : s.txs.SlotLaw) (hwindow : s.WindowLaw) {c : Candidate}
include hslots hwindow

theorem State.offers_of_choiceAt {u : BitVec 2} (hc : s.choiceAt u = some c) : s.Offers c := by
  unfold State.choiceAt at hc
  rcases Option.or_eq_some_iff.1 hc with hc | ⟨-, hc⟩
  · rcases Option.or_eq_some_iff.1 hc with hc | ⟨-, hc⟩
    · obtain ⟨h, -, hc⟩ := List.exists_of_findSome?_eq_some hc
      obtain ⟨_, -, ho⟩ := (State.resendOf_iff hslots hwindow).1 hc
      exact ho
    · obtain ⟨h, -, hc⟩ := List.exists_of_findSome?_eq_some hc
      exact ((State.messageOf_iff hslots).1 hc).2
  · obtain ⟨⟨-, hoffered⟩, hc⟩ := Option.ite_none_right_eq_some.1 hc
    cases hc
    exact State.helloOffered_iff.1 hoffered

/-- What TXS presents is a candidate of the choice (R99, R100, R101). -/
theorem State.offers_of_choose (hc : s.choose = some c) : s.Offers c := by
  unfold State.choose at hc
  rcases Option.or_eq_some_iff.1 hc with hc | ⟨-, hc⟩
  · rcases Option.or_eq_some_iff.1 hc with hc | ⟨-, hc⟩
    · rcases Option.or_eq_some_iff.1 hc with hc | ⟨-, hc⟩
      · rcases Option.or_eq_some_iff.1 hc with hc | ⟨-, hc⟩
        · obtain ⟨k, -, hc⟩ := List.exists_of_findSome?_eq_some hc
          obtain ⟨p, hp, rfl⟩ := Option.map_eq_some_iff.1 hc
          exact State.controlOffered_iff.1 (List.find?_some hp)
        · obtain ⟨hoffered, hc⟩ := Option.ite_none_right_eq_some.1 hc
          cases hc
          exact State.leavingHelloOffered_iff.1 hoffered
      · exact State.offers_of_choiceAt hslots hwindow hc
    · exact State.offers_of_choiceAt hslots hwindow hc
  · exact State.offers_of_choiceAt hslots hwindow hc

end

end Sys2Proof.Machine
end

section
/-! PROOFS. The order of the choice: each part of it picks the first candidate of its class (R103, R104). -/

namespace Sys2Proof.Machine

/-! ### The classes of the choice (R103) -/

/-- The order of the control frames at urgency 0: ACCEPT before OPEN before CREDIT. -/
def controlClass : ControlKind → Nat
  | .acceptFrame => 0
  | .openFrame => 1
  | .creditFrame => 2

theorem controlClass_lt (k : ControlKind) : controlClass k < 3 := by cases k <;> decide

theorem controlClass_inj {k k' : ControlKind} (h : controlClass k = controlClass k') : k = k' := by
  cases k <;> cases k' <;> simp_all [controlClass]

/-- The class of a candidate: the rank in steps of 32, of which rotation and submission age fill one each. -/
def State.choiceClass (s : State) : Candidate → Nat
  | .control k _ => controlClass k
  | .leavingHello => 3
  | .resend h _ => 4 * (s.txs.slot h).urgency.toNat
  | .firstSend h _ => 4 * (s.txs.slot h).urgency.toNat + 1
  | .group h => 4 * (s.txs.slot h).urgency.toNat + 1
  | .hello => 15

/-- The place of a candidate within its class: rotation or submission age. -/
def State.choicePlace (s : State) : Candidate → Nat
  | .control _ p => placeAfter s.txs.controlPtr p
  | .resend h _ => s.txs.order.idxOf h
  | .firstSend h _ => s.txs.order.idxOf h
  | .group h => s.txs.order.idxOf h
  | .hello => 0
  | .leavingHello => 0

theorem State.rank_eq (s : State) (c : Candidate) : s.rank c = 32 * s.choiceClass c + s.choicePlace c := by
  rcases c with _ | _ | ⟨_ | _ | _, p⟩ | _ | _ | _ <;>
    simp only [State.rank, State.choiceClass, controlClass, State.choicePlace] <;> omega

/-- The slot that a candidate on offer sends. -/
def Candidate.slot : Candidate → Option Handle
  | .resend h _ => some h
  | .firstSend h _ => some h
  | .group h => some h
  | _ => none

/-- What the choice sends is an open slot (R100, R101). -/
theorem State.isOpen_of_offers {s : State} {c : Candidate} (ho : s.Offers c) {h : Handle} (hc : c.slot = some h) :
    (s.txs.slot h).isOpen = true := by
  cases c <;> cases hc
  case firstSend p => exact Slot.isOpen_of_isQueuedTo ho.2.2.2.2.2.1
  case resend p => exact Slot.isOpen_of_isSentTo (Slot.isSentTo_of_isMarkedFor ho.2.2.2.1)
  case group =>
    obtain ⟨-, -, -, m, tag, hm, -⟩ := ho
    rw [hm]
    rfl

section
variable {s : State} (hslots : s.txs.SlotLaw)
include hslots

/-- A submission order list holds at most 24 slots (R91). -/
theorem State.choicePlace_lt {c : Candidate} (ho : s.Offers c) : s.choicePlace c < 32 := by
  have hplace : ∀ {h}, c.slot = some h → s.txs.order.idxOf h < 32 := fun hc => by
    have hlength : s.txs.order.length ≤ 24 := by simpa using hslots.1.length_le_card
    have := List.idxOf_lt_length_of_mem (hslots.mem_order (State.isOpen_of_offers ho hc))
    omega
  cases c with
  | control k p =>
    have := (p - s.txs.controlPtr - 1).isLt
    simp only [State.choicePlace, placeAfter]
    omega
  | hello => simp [State.choicePlace]
  | leavingHello => simp [State.choicePlace]
  | firstSend h p => exact hplace rfl
  | resend h p => exact hplace rfl
  | group h => exact hplace rfl

end

/-- A message has an urgency 1 to 3 (R89). -/
theorem State.urgency_of_offers {s : State} (hmessages : s.MessageLaw) {c : Candidate} (ho : s.Offers c) {h : Handle}
    (hc : c.slot = some h) : 1 ≤ (s.txs.slot h).urgency.toNat ∧ (s.txs.slot h).urgency.toNat ≤ 3 := by
  have hopen := State.isOpen_of_offers ho hc
  have hbound : ∀ u : BitVec 2, u ≠ 0 → 1 ≤ u.toNat ∧ u.toNat ≤ 3 := by decide
  refine hbound _ ?_
  cases hx : s.txs.slot h with
  | queued m => exact (hmessages.1 h m (by rw [hx]; rfl)).1
  | sent m q b => exact (hmessages.1 h m (by rw [hx]; rfl)).1
  | free => simp [hx, Slot.isOpen] at hopen
  | complete m q o => simp [hx, Slot.isOpen] at hopen

/-- The classes of the candidates on offer: control frames, the LEAVING HELLO, the messages by urgency, and the HELLO. -/
theorem State.choiceClass_cases {s : State} (hmessages : s.MessageLaw) {c : Candidate} (ho : s.Offers c) :
    (∃ k p, c = .control k p ∧ s.choiceClass c < 3)
      ∨ (c = .leavingHello ∧ s.choiceClass c = 3)
      ∨ (∃ h u, c.slot = some h ∧ (s.txs.slot h).urgency = u ∧ 1 ≤ u.toNat ∧ u.toNat ≤ 3
          ∧ ((∃ p, c = .resend h p) ∧ s.choiceClass c = 4 * u.toNat
            ∨ ((∃ p, c = .firstSend h p) ∨ c = .group h) ∧ s.choiceClass c = 4 * u.toNat + 1))
      ∨ (c = .hello ∧ s.choiceClass c = 15) := by
  have hmessage : ∀ {h}, c.slot = some h → 1 ≤ (s.txs.slot h).urgency.toNat ∧ (s.txs.slot h).urgency.toNat ≤ 3 :=
    State.urgency_of_offers hmessages ho
  cases c with
  | control k p => exact .inl ⟨k, p, rfl, controlClass_lt k⟩
  | leavingHello => exact .inr (.inl ⟨rfl, rfl⟩)
  | resend h p =>
    obtain ⟨hlow, hhigh⟩ := hmessage rfl
    exact .inr (.inr (.inl ⟨h, _, rfl, rfl, hlow, hhigh, .inl ⟨⟨p, rfl⟩, rfl⟩⟩))
  | firstSend h p =>
    obtain ⟨hlow, hhigh⟩ := hmessage rfl
    exact .inr (.inr (.inl ⟨h, _, rfl, rfl, hlow, hhigh, .inr ⟨.inl ⟨p, rfl⟩, rfl⟩⟩))
  | group h =>
    obtain ⟨hlow, hhigh⟩ := hmessage rfl
    exact .inr (.inr (.inl ⟨h, _, rfl, rfl, hlow, hhigh, .inr ⟨.inr rfl, rfl⟩⟩))
  | hello => exact .inr (.inr (.inr ⟨rfl, rfl⟩))

theorem State.choiceClass_lt {s : State} (hmessages : s.MessageLaw) {c : Candidate} (ho : s.Offers c) :
    s.choiceClass c < 16 := by
  rcases State.choiceClass_cases hmessages ho with ⟨_, _, -, h⟩ | ⟨-, h⟩ | ⟨_, _, -, -, -, hhigh, ⟨-, h⟩ | ⟨-, h⟩⟩ | ⟨-, h⟩
  · omega
  all_goals omega

theorem Txs.urgency_of_mem_ofUrgency {t : Txs} {u : BitVec 2} {h : Handle} (hh : h ∈ t.ofUrgency u) :
    (t.slot h).urgency = u := by
  simpa using (List.mem_filter.1 hh).2

/-! ### What each part of the choice picks (R103) -/

/-- A part of the choice: no candidate on offer from class `first` on comes before what it picks; where it picks nothing, none
stands before class `next`. -/
structure State.Picks (s : State) (first next : Nat) (o : Option Candidate) : Prop where
  least : ∀ c, o = some c → ∀ c', s.Offers c' → first ≤ s.choiceClass c' → s.rank c ≤ s.rank c'
  passed : o = none → ∀ c', s.Offers c' → first ≤ s.choiceClass c' → next ≤ s.choiceClass c'

section
variable {s : State}

/-- Two parts that follow one another. -/
theorem State.Picks.or {i j k : Nat} {o o' : Option Candidate} (h : s.Picks i j o) (h' : s.Picks j k o') :
    s.Picks i k (o.or o') := by
  cases o with
  | some c => exact ⟨h.least, nofun⟩
  | none =>
    exact ⟨fun c hc c' ho hi => h'.least c hc c' ho (h.passed rfl c' ho hi),
      fun hn c' ho hi => h'.passed hn c' ho (h.passed rfl c' ho hi)⟩

/-- The HELLO comes last, at urgency 3 only (R103). -/
theorem State.picks_hello (hmessages : s.MessageLaw) {u : BitVec 2} (hu : 1 ≤ u.toNat) :
    s.Picks (4 * u.toNat + 2) (4 * u.toNat + 4) (if u = 3 ∧ s.helloOffered then some .hello else none) := by
  have hlast : ∀ c', s.Offers c' → 4 * u.toNat + 2 ≤ s.choiceClass c' → c' = .hello ∨ 4 * u.toNat + 4 ≤ s.choiceClass c' :=
    fun c' ho hclass => by
      rcases State.choiceClass_cases hmessages ho
        with ⟨_, _, -, h⟩ | ⟨-, h⟩ | ⟨_, _, -, -, -, -, ⟨-, h⟩ | ⟨-, h⟩⟩ | ⟨hc, -⟩
      · omega
      · omega
      · omega
      · omega
      · exact .inl hc
  by_cases hh : u = 3 ∧ s.helloOffered = true
  · obtain ⟨rfl, hoffered⟩ := hh
    rw [if_pos ⟨rfl, hoffered⟩]
    refine ⟨fun c hc c' ho hclass => ?_, nofun⟩
    obtain rfl := Option.some.inj hc
    rcases hlast c' ho hclass with rfl | h
    · exact le_refl _
    · exact absurd h (Nat.not_le.2 (State.choiceClass_lt hmessages ho))
  · rw [if_neg hh]
    refine ⟨nofun, fun _ c' ho hclass => ?_⟩
    rcases hlast c' ho hclass with rfl | h
    · have hne : u.toNat ≠ 3 := fun e =>
        hh ⟨BitVec.eq_of_toNat_eq e, State.helloOffered_iff.2 ho⟩
      have hlt := u.isLt
      show _ ≤ 15
      omega
    · exact h

variable (hslots : s.txs.SlotLaw)
include hslots

/-- The part of one class: what it picks is of the class, and none of the class stands before it. -/
theorem State.Picks.ofClass {n : Nat} {o : Option Candidate}
    (hsome : ∀ c, o = some c → s.Offers c ∧ s.choiceClass c = n
      ∧ ∀ c', s.Offers c' → s.choiceClass c' = n → s.choicePlace c ≤ s.choicePlace c')
    (hnone : o = none → ∀ c', s.Offers c' → s.choiceClass c' ≠ n) : s.Picks n (n + 1) o where
  least c hc c' ho hn := by
    obtain ⟨hoffered, hclass, hplace⟩ := hsome c hc
    have hlt := State.choicePlace_lt hslots hoffered
    have hplace := hplace c' ho
    rw [s.rank_eq, s.rank_eq]
    omega
  passed hn c' ho hclass := by
    have := hnone hn c' ho
    omega

/-- The oldest message of one kind within one urgency (R103). -/
theorem State.picks_ofUrgency {f : Handle → Option Candidate} {u : BitVec 2} {n : Nat}
    (hoffered : ∀ h ∈ s.txs.ofUrgency u, ∀ c, f h = some c →
      s.Offers c ∧ s.choiceClass c = n ∧ s.choicePlace c = s.txs.order.idxOf h)
    (hfound : ∀ c, s.Offers c → s.choiceClass c = n → ∃ h, c.slot = some h ∧ (s.txs.slot h).urgency = u ∧ f h = some c) :
    s.Picks n (n + 1) ((s.txs.ofUrgency u).findSome? f) := by
  have hmem : ∀ {c h}, s.Offers c → c.slot = some h → (s.txs.slot h).urgency = u → h ∈ s.txs.ofUrgency u :=
    fun ho hc hu => List.mem_filter.2 ⟨hslots.mem_order (State.isOpen_of_offers ho hc), by simp [hu]⟩
  refine State.Picks.ofClass hslots (fun c hc => ?_) fun hnone c' ho hclass => ?_
  · obtain ⟨h, hh, hu, hf, hfirst⟩ := findSome?_filter_first hc
    obtain ⟨ho, hclass, hplace⟩ := hoffered h (List.mem_filter.2 ⟨hh, hu⟩) c hf
    refine ⟨ho, hclass, fun c' ho' hclass' => ?_⟩
    obtain ⟨h', hslot', hu', hf'⟩ := hfound c' ho' hclass'
    have hh' := hmem ho' hslot' hu'
    obtain ⟨hin, hu'⟩ := List.mem_filter.1 hh'
    rw [hplace, (hoffered h' hh' c' hf').2.2]
    exact hfirst h' hin hu' (by simp [hf'])
  · obtain ⟨h, hslot, hu, hf⟩ := hfound c' ho hclass
    rw [List.findSome?_eq_none_iff.1 hnone h (hmem ho hslot hu)] at hf
    cases hf

variable (hmessages : s.MessageLaw)
include hmessages

/-- The control frame of one kind that wins: the first in rotation (R103 step 3, R104). -/
theorem State.picks_control (k : ControlKind) :
    s.Picks (controlClass k) (controlClass k + 1)
      (((rotationFrom s.txs.controlPtr).find? (s.controlOffered k)).map (.control k)) := by
  have hkind : ∀ c', s.Offers c' → s.choiceClass c' = controlClass k → ∃ p, c' = .control k p := fun c' ho hclass => by
    have hk := controlClass_lt k
    rcases State.choiceClass_cases hmessages ho with ⟨_, p, rfl, -⟩ | ⟨-, h⟩ | ⟨_, _, -, -, hlow, -, ⟨-, h⟩ | ⟨-, h⟩⟩ | ⟨-, h⟩
    · exact ⟨p, controlClass_inj hclass ▸ rfl⟩
    all_goals omega
  refine State.Picks.ofClass hslots (fun c hc => ?_) fun hnone c' ho hclass => ?_
  · obtain ⟨p, hp, rfl⟩ := Option.map_eq_some_iff.1 hc
    obtain ⟨hoffered, hfirst⟩ := (find?_rotationFrom _).1 hp
    refine ⟨State.controlOffered_iff.1 hoffered, rfl, fun c' ho hclass => ?_⟩
    obtain ⟨p', rfl⟩ := hkind c' ho hclass
    exact hfirst p' (State.controlOffered_iff.2 ho)
  · obtain ⟨p, rfl⟩ := hkind c' ho hclass
    exact List.find?_eq_none.1 (Option.map_eq_none_iff.1 hnone) p (mem_rotationFrom _ p) (State.controlOffered_iff.2 ho)

theorem State.picks_controlChoice : s.Picks 0 3 s.controlChoice := by
  have hparts := ((State.picks_control hslots hmessages .acceptFrame).or
    (State.picks_control hslots hmessages .openFrame)).or (State.picks_control hslots hmessages .creditFrame)
  rw [Option.or_assoc] at hparts
  have hsearch : ∀ (f : ControlKind → Option Candidate) k ks, (k :: ks).findSome? f = (f k).or (ks.findSome? f) :=
    fun f k ks => by
      rw [List.findSome?_cons]
      cases f k <;> rfl
  rw [State.controlChoice, hsearch, hsearch, List.findSome?_singleton]
  exact hparts

/-- The LEAVING HELLO comes after the control frames (R103). -/
theorem State.picks_leavingHello : s.Picks 3 4 (if s.leavingHelloOffered then some .leavingHello else none) := by
  have hkind : ∀ c', s.Offers c' → s.choiceClass c' = 3 → c' = .leavingHello := fun c' ho hclass => by
    rcases State.choiceClass_cases hmessages ho with ⟨_, _, -, h⟩ | ⟨h, -⟩ | ⟨_, _, -, -, hlow, -, ⟨-, h⟩ | ⟨-, h⟩⟩ | ⟨-, h⟩
    · omega
    · exact h
    all_goals omega
  refine State.Picks.ofClass hslots (fun c hc => ?_) fun hnone c' ho hclass => ?_
  · obtain ⟨hoffered, hc⟩ := Option.ite_none_right_eq_some.1 hc
    cases hc
    exact ⟨State.leavingHelloOffered_iff.1 hoffered, rfl, fun c' _ _ => Nat.zero_le _⟩
  · obtain rfl := hkind c' ho hclass
    rw [if_pos (State.leavingHelloOffered_iff.2 ho)] at hnone
    cases hnone

section
variable {u : BitVec 2} (hu : 1 ≤ u.toNat)
include hu

/-- The oldest resend of an urgency (R103). -/
theorem State.picks_resends (hwindow : s.WindowLaw) :
    s.Picks (4 * u.toNat) (4 * u.toNat + 1) ((s.txs.ofUrgency u).findSome? s.resendOf) := by
  refine State.picks_ofUrgency hslots (fun h hh c hc => ?_) fun c ho hclass => ?_
  · obtain ⟨p, rfl, ho⟩ := (State.resendOf_iff hslots hwindow).1 hc
    exact ⟨ho, by rw [State.choiceClass, Txs.urgency_of_mem_ofUrgency hh], rfl⟩
  · rcases State.choiceClass_cases hmessages ho
      with ⟨_, _, -, h⟩ | ⟨-, h⟩ | ⟨k, u', hslot, hu', -, -, ⟨⟨p, rfl⟩, h⟩ | ⟨-, h⟩⟩ | ⟨-, h⟩
    · omega
    · omega
    · have hsame : u' = u := BitVec.eq_of_toNat_eq (by omega)
      exact ⟨k, hslot, hu'.trans hsame, (State.resendOf_iff hslots hwindow).2 ⟨p, rfl, ho⟩⟩
    all_goals omega

/-- The oldest first send or GROUP of an urgency (R103). -/
theorem State.picks_messages :
    s.Picks (4 * u.toNat + 1) (4 * u.toNat + 2) ((s.txs.ofUrgency u).findSome? s.messageOf) := by
  refine State.picks_ofUrgency hslots (fun h hh c hc => ?_) fun c ho hclass => ?_
  · obtain ⟨⟨p, rfl⟩ | rfl, ho⟩ := (State.messageOf_iff hslots).1 hc
    · exact ⟨ho, by rw [State.choiceClass, Txs.urgency_of_mem_ofUrgency hh], rfl⟩
    · exact ⟨ho, by rw [State.choiceClass, Txs.urgency_of_mem_ofUrgency hh], rfl⟩
  · rcases State.choiceClass_cases hmessages ho
      with ⟨_, _, -, h⟩ | ⟨-, h⟩ | ⟨k, u', hslot, hu', -, -, ⟨-, h⟩ | ⟨hc, h⟩⟩ | ⟨-, h⟩
    · omega
    · omega
    · omega
    · have hsame : u' = u := BitVec.eq_of_toNat_eq (by omega)
      exact ⟨k, hslot, hu'.trans hsame, (State.messageOf_iff hslots).2 ⟨hc, ho⟩⟩
    · omega

/-- The winner within an urgency 1 to 3 (R103 steps 2 and 4 to 6). -/
theorem State.picks_choiceAt (hwindow : s.WindowLaw) : s.Picks (4 * u.toNat) (4 * u.toNat + 4) (s.choiceAt u) :=
  ((State.picks_resends hslots hmessages hu hwindow).or (State.picks_messages hslots hmessages hu)).or
    (State.picks_hello hmessages hu)

end

end

/-- The choice is the first of all that is on offer (R103). -/
theorem State.picks_choose {s : State} (hslots : s.txs.SlotLaw) (hwindow : s.WindowLaw) (hmessages : s.MessageLaw) :
    s.Picks 0 16 s.choose :=
  ((((State.picks_controlChoice hslots hmessages).or (State.picks_leavingHello hslots hmessages)).or
    (State.picks_choiceAt hslots hmessages (u := 1) (by decide) hwindow)).or
    (State.picks_choiceAt hslots hmessages (u := 2) (by decide) hwindow)).or
    (State.picks_choiceAt hslots hmessages (u := 3) (by decide) hwindow)

/-- Settles O47: the choice is the first of the candidates on offer by class and place, and none is above the last class. -/
theorem choiceIsFirstOfTheCandidates : Obligations.ChoiceIsFirstOfTheCandidates := by
  intro s hslots hwindow hmessages
  have hpicks := State.picks_choose hslots hwindow hmessages
  refine ⟨fun c hc => ⟨State.offers_of_choose hslots hwindow hc, fun c' ho => ?_⟩, fun hnone c ho => ?_⟩
  · exact hpicks.least c hc c' ho (Nat.zero_le _)
  · exact Nat.not_le.2 (State.choiceClass_lt hmessages ho) (hpicks.passed hnone c ho (Nat.zero_le _))

end Sys2Proof.Machine
end

section
/-! PROOFS. What leaves the health monitor alone, and the record that each event may stage (R100, R102, R131). -/

namespace Sys2Proof.Machine

/-! ### A frame record leaves HMN alone (R21, R127) -/

section
variable (s : State) (p : Station)

@[simp] theorem State.hmn_grantAttempt : s.grantAttempt.hmn = s.hmn := by
  rw [State.grantAttempt_frame]

@[simp] theorem State.hmn_sessionEnd (st : AssocState) (e : Epoch) : (s.sessionEnd p st e).hmn = s.hmn := rfl

@[simp] theorem State.hmn_stale : s.stale.hmn = s.hmn := rfl

@[simp] theorem State.hmn_refresh : (s.refresh p).hmn = s.hmn := rfl

@[simp] theorem State.hmn_refreshIfMatching (e : Epoch) : (s.refreshIfMatching p e).hmn = s.hmn := by
  unfold State.refreshIfMatching
  split <;> rfl

@[simp] theorem State.hmn_restartNoticed : (s.restartNoticed p).hmn = s.hmn := by
  unfold State.restartNoticed
  split <;> rfl

@[simp] theorem State.hmn_resynchronise (e : Epoch) : (s.resynchronise p e).hmn = s.hmn := by
  simp only [State.resynchronise, State.hmn_grantAttempt, State.onPeer_hmn]
  split <;> simp

@[simp] theorem State.hmn_leavingHelloReceived : (s.leavingHelloReceived p).hmn = s.hmn := by
  unfold State.leavingHelloReceived
  split <;> simp

@[simp] theorem State.hmn_helloReceived (e : Epoch) : (s.helloReceived p e).hmn = s.hmn := by
  unfold State.helloReceived
  split
  case h_3 => split <;> simp
  case h_4 => split <;> simp
  all_goals simp

@[simp] theorem State.hmn_openReceived (se de : Epoch) (l : Seq) : (s.openReceived p se de l).hmn = s.hmn := by
  unfold State.openReceived State.openLink
  split
  · split <;> simp
  · simp

theorem State.hmn_takeAckLimit {s : State} {p : Station} {a l : Seq} {t : State} (h : s.takeAckLimit p a l = some t) :
    t.hmn = s.hmn := by
  unfold State.takeAckLimit at h
  split at h
  · cases h
    simp only [State.takeAck, State.onPeer_hmn]
    split <;> rfl
  · cases h

@[simp] theorem State.hmn_acceptReceived (se de : Epoch) (a l : Seq) : (s.acceptReceived p se de a l).hmn = s.hmn := by
  unfold State.acceptReceived State.acceptLink
  split
  · split
    · simp
    next t h => split <;> simp [State.hmn_takeAckLimit h]
  · simp

@[simp] theorem State.hmn_creditReceived (se de : Epoch) (a l : Seq) : (s.creditReceived p se de a l).hmn = s.hmn := by
  unfold State.creditReceived
  split
  · split
    · simp
    next t h => exact State.hmn_takeAckLimit h
  · simp

@[simp] theorem State.hmn_takeSeq (q : Seq) (b : List Byte) : (s.takeSeq p q b).hmn = s.hmn := by
  unfold State.takeSeq
  split <;> rfl

@[simp] theorem State.hmn_dataReceived (se de : Epoch) (q a l : Seq) (b : List Byte) :
    (s.dataReceived p se de q a l b).hmn = s.hmn := by
  unfold State.dataReceived
  split
  · split
    · simp
    next t h => simp [State.hmn_takeAckLimit h]
  · simp

@[simp] theorem State.hmn_controlReceived (k : ControlKind) (se de : Epoch) (a l : Seq) :
    (s.controlReceived p k se de a l).hmn = s.hmn := by
  unfold State.controlReceived
  split
  · simp
  · cases k <;> simp

@[simp] theorem State.hmn_overheard (e : Epoch) : (s.overheard p e).hmn = s.hmn := by
  unfold State.overheard
  split <;> simp

@[simp] theorem State.hmn_groupReceived (tag : Byte) (b : List Byte) : (s.groupReceived p tag b).hmn = s.hmn := by
  unfold State.groupReceived
  split
  · rfl
  · split <;> rfl

@[simp] theorem State.hmn_routeFrame (f : FrameBody) : (s.routeFrame p f).hmn = s.hmn := by
  cases f with
  | hello epoch leaving =>
    simp only [State.routeFrame]
    split
    · simp
    · split <;> simp
  | control k dest se de a l =>
    simp only [State.routeFrame]
    split <;> simp
  | data dest se de q a l payload =>
    simp only [State.routeFrame]
    split
    · split <;> simp
    · simp
  | group tag payload => simp [State.routeFrame]

@[simp] theorem State.hmn_takeRecord (a : Address) (f : FrameBody) : (s.takeRecord a f).hmn = s.hmn := by
  unfold State.takeRecord
  split
  · split <;> simp
  · rfl

/-! ### Stagings leave all but the LIU and the staging record alone (R98, R105) -/

theorem State.stage_frame : ∃ liu txs, s.stage = { s with liu := liu, txs := txs } := by
  rcases s.stage_cases with h | ⟨c, u, f, r, -, -, h⟩
  · exact ⟨s.liu, s.txs, h⟩
  · exact ⟨_, _, h⟩

@[simp] theorem State.hmn_chooseAndStage : s.chooseAndStage.hmn = s.hmn := by
  rcases s.chooseAndStage_cases with h | ⟨-, -, h⟩
  · rw [h]
  · obtain ⟨c, hc⟩ := s.contentionOpportunity_eq
    obtain ⟨liu, txs, hstage⟩ := s.contentionOpportunity.stage_frame
    rw [h, hstage, hc]

@[simp] theorem State.finish_staged : s.finish.txs.staged = s.txs.staged := by
  obtain ⟨c, b, h⟩ := s.finish_eq
  rw [h]

end

/-! ### The states from which an event stages -/

/-- Where a later state is RUNNING, so is the earlier one, with the same association states and the same limits held. -/
def State.RunsAs (s w : State) : Prop :=
  w.control.opState = .running →
    s.control.opState = .running
      ∧ ∀ p, (w.peer p).state = (s.peer p).state ∧ (w.peer p).heldLimit = (s.peer p).heldLimit

section
variable {s v w : State}

theorem State.RunsAs.refl : s.RunsAs s := fun h => ⟨h, fun _ => ⟨rfl, rfl⟩⟩

theorem State.RunsAs.trans (h : s.RunsAs v) (h' : v.RunsAs w) : s.RunsAs w := fun hw => by
  obtain ⟨hv, hpeers'⟩ := h' hw
  obtain ⟨hs, hpeers⟩ := h hv
  exact ⟨hs, fun p => ⟨(hpeers' p).1.trans (hpeers p).1, (hpeers' p).2.trans (hpeers p).2⟩⟩

/-- The laws of the sessions see enough of a state to tell. -/
theorem State.runsAs_of_sessionView (h : w.sessionView = s.sessionView) : s.RunsAs w := fun hw =>
  ⟨(State.opState_of_sessionView h).symm.trans hw, fun p =>
    have hwindow := State.window_of_sessionView h p
    ⟨congrArg SendWindow.state hwindow, congrArg SendWindow.heldLimit hwindow⟩⟩

/-- A report to HMN leaves the sessions as they were, or the part is DETACHED (R127, R133). -/
theorem State.runsAs_healthReport (s : State) (r : HealthReport) : s.RunsAs (s.healthReport r) := by
  rcases s.healthReport_cases r with h | ⟨-, scored, rfl, h | h | h | ⟨-, h⟩⟩ <;> rw [h]
  · exact State.RunsAs.refl
  · exact State.RunsAs.refl
  · exact State.RunsAs.refl
  · exact State.RunsAs.refl
  · intro hw
    simp [State.enterDetached] at hw

theorem State.runsAs_reportClash (s : State) : s.RunsAs s.reportClash := by
  unfold State.reportClash
  split
  · exact State.runsAs_healthReport (s.raise .addressClash) .addressClash
  · exact State.RunsAs.refl

theorem State.runsAs_firstSendOk (s : State) (h : Option Handle) (p : Station) (q : Seq) (c : Carried) :
    s.RunsAs (s.firstSendOk h p q c) := by
  refine State.RunsAs.trans ?_ (State.runsAs_of_sessionView (State.sessionView_carry _ p c))
  split
  · exact State.RunsAs.refl
  · split
    · intro hw
      refine ⟨hw, fun p' => ?_⟩
      rw [State.peer_onPeer]
      split
      next hp => exact hp ▸ ⟨rfl, rfl⟩
      next => exact ⟨rfl, rfl⟩
    · exact State.RunsAs.refl

/-- SENT_OK clears flags and makes a slot SENT, or ends LEAVING (R107, R108, R109, R152). -/
theorem State.runsAs_takeSentOk (s : State) : s.RunsAs s.takeSentOk := by
  have hclear : ∀ {v : State}, s.RunsAs v → s.RunsAs v.clearStaged := id
  unfold State.takeSentOk
  split
  · exact State.RunsAs.refl
  · exact hclear (State.runsAs_of_sessionView (s.sessionView_helloOk _))
  · split
    · exact nofun
    · exact hclear State.RunsAs.refl
  · exact hclear (State.runsAs_of_sessionView (s.sessionView_controlOk _ _ _))
  · exact hclear (s.runsAs_firstSendOk _ _ _ _)
  · exact hclear (State.runsAs_of_sessionView (s.sessionView_resendOk _ _ _ _))
  · exact hclear State.RunsAs.refl

@[simp] theorem State.hmn_takeSentOk (s : State) : s.takeSentOk.hmn = s.hmn := by
  unfold State.takeSentOk
  split
  · rfl
  · simp only [State.clearStaged, State.onTxs_hmn, State.helloOk]
    split <;> rfl
  · split <;> rfl
  · rfl
  · simp only [State.clearStaged, State.onTxs_hmn, State.firstSendOk, State.carry, State.onPeer_hmn]
    split
    · rfl
    · split <;> rfl
  · simp only [State.clearStaged, State.onTxs_hmn, State.resendOk, State.carry, State.onPeer_hmn]
    split
    · rfl
    · split <;> rfl
  · rfl

end

/-! ### The record that may be staged (R100, R102, R131) -/

/-- What an event at `s` may have staged when it is over: new DATA within credit only, and OPEN and messages only if `sound`
holds. -/
def State.MayStart (s : State) (sound : Prop) (o : Option StagingRecord) : Prop :=
  (∀ h p q c, o = some (.firstSend h p q c) →
    s.control.opState = .running ∧ (s.peer p).state = .linked
      ∧ 1 ≤ ((s.peer p).heldLimit - q).toNat ∧ ((s.peer p).heldLimit - q).toNat ≤ 15)
  ∧ (¬sound → ∀ r, o = some r →
      (∃ e, r = .hello e) ∨ (∃ e, r = .leavingHello e) ∨ ∃ k p c, r = .control k p c ∧ k ≠ .openFrame)

section
variable {s w : State} {sound : Prop}

theorem State.mayStart_none : s.MayStart sound none := ⟨nofun, nofun⟩

/-- The held credit is at most the window (R48). -/
theorem State.WindowLaw.heldCredit_le (hs : s.WindowLaw) (p : Station) : (s.peer p).heldCredit ≤ 15 := by
  obtain ⟨hspan, hwindow, -⟩ := hs p
  simp only [PeerEntry.outstanding] at hspan
  simp only [PeerEntry.heldCredit]
  bv_omega

/-- The record of a chosen candidate may be staged. -/
theorem State.mayStart_of_choose (hw : w.SessionsHold) (hruns : s.RunsAs w) (hsound : w.hmn.level = .sound → sound)
    {c : Candidate} {u : BitVec 2} {f : FrameBody} {r : StagingRecord} (hc : w.choose = some c)
    (hb : w.buildFrame c = some (u, f, r)) : s.MayStart sound (some r) := by
  have ho := State.offers_of_choose hw.slots hw.window hc
  cases c with
  | hello =>
    cases hb
    exact ⟨nofun, fun _ r hr => .inl ⟨_, (Option.some.inj hr).symm⟩⟩
  | leavingHello =>
    cases hb
    exact ⟨nofun, fun _ r hr => .inr (.inl ⟨_, (Option.some.inj hr).symm⟩)⟩
  | control k p =>
    cases hb
    refine ⟨nofun, fun hno r hr => .inr (.inr ⟨k, p, _, (Option.some.inj hr).symm, ?_⟩)⟩
    rintro rfl
    exact hno (hsound ho.2.1)
  | firstSend h p =>
    obtain ⟨hrunning, hlevel, hlinked, hcredit, -⟩ := ho
    refine ⟨fun h' p' q c hr => ?_, fun hno => absurd (hsound hlevel) hno⟩
    simp only [State.buildFrame] at hb
    split at hb
    · cases hb
      cases hr
      obtain ⟨hs, hpeers⟩ := hruns (by simpa [State.isRunning] using hrunning)
      rw [← (hpeers p).1, ← (hpeers p).2]
      exact ⟨hs, hlinked, hcredit, hw.window.heldCredit_le p⟩
    · cases hb
  | resend h p =>
    refine ⟨fun h' p' q c hr => ?_, fun hno => absurd (hsound ho.2.1) hno⟩
    simp only [State.buildFrame] at hb
    split at hb
    · cases hb
      cases hr
    · cases hb
  | group h =>
    refine ⟨fun h' p' q c hr => ?_, fun hno => absurd (hsound ho.2.1) hno⟩
    simp only [State.buildFrame] at hb
    split at hb
    · split at hb
      · cases hb
        cases hr
      · cases hb
    · cases hb

theorem State.loseContention_staged (s : State) (bit : Fin 7) : (s.loseContention bit).txs.staged = none :=
  State.takeFailure_staged _

theorem State.readbackFault_staged (s : State) (element : Nat) (scoreFirst : Bool) :
    (s.readbackFault element scoreFirst).txs.staged = none := by
  cases scoreFirst with
  | true => exact State.takeFailure_staged _
  | false => exact (State.staged_of_lineView (State.lineView_healthReport _ _)).trans (State.takeFailure_staged _)

/-- What is chosen and staged at once may be staged. -/
theorem State.mayStart_chooseAndStage (hw : w.SessionsHold) (hruns : s.RunsAs w)
    (hsound : w.hmn.level = .sound → sound) (hnone : w.txs.staged = none) :
    s.MayStart sound w.chooseAndStage.txs.staged := by
  rcases w.chooseAndStage_cases with h | ⟨hidle, -, h⟩ <;> rw [h]
  · rw [hnone]
    exact State.mayStart_none
  · have hchosen : w.contentionOpportunity = { w with txs := { w.txs with presented := w.choose } } := by
      rw [State.contentionOpportunity, if_pos (by rw [hidle, hnone]; rfl)]
      rfl
    rw [hchosen]
    rcases State.stage_cases { w with txs := { w.txs with presented := w.choose } } with h | ⟨c, u, f, r, hc, hb, h⟩ <;>
      rw [h]
    · rw [hnone]
      exact State.mayStart_none
    · exact State.mayStart_of_choose hw hruns hsound hc hb

/-- The staging that opens an event takes what TXS presented as its choice (R98, R105). -/
theorem State.mayStart_stage (hs : s.SessionsHold) (hp : s.PresentedLaw) (hcan : s.canStage = true) :
    s.MayStart (s.hmn.level = .sound) s.stage.txs.staged := by
  simp only [State.canStage, Bool.and_eq_true, Option.isNone_iff_eq_none] at hcan
  obtain ⟨⟨hidle, hnone⟩, -⟩ := hcan
  rcases s.stage_cases with h | ⟨c, u, f, r, hpresented, hb, h⟩ <;> rw [h]
  · rw [hnone]
    exact State.mayStart_none
  · exact State.mayStart_of_choose hs State.RunsAs.refl id ((hp hidle hnone).symm.trans hpresented) hb

/-! ### The effects that stage -/

/-- SENT_OK, its line idle taken first or not at all (R109, R131). -/
theorem State.mayStart_sentOk (hs : s.SessionsHold) (first : Bool) :
    s.MayStart (s.hmn.level = .sound) (s.sentOk first).txs.staged := by
  cases first with
  | false =>
    have hnone : (s.sentOk false).txs.staged = none := State.takeSentOk_staged _
    rw [hnone]
    exact State.mayStart_none
  | true =>
    have hcounted : Changes s ((s.onLiu Liu.sentOk).count .framesSent) := (Change.liu _).chain.tail (.hpt _)
    have hstaged : (s.sentOk true).txs.staged = s.sentCounted.takeSentOk.chooseAndStage.txs.staged :=
      State.staged_of_lineView (State.lineView_healthReport _ _)
    rw [hstaged]
    refine State.mayStart_chooseAndStage (hs.changes (hcounted.trans (State.changes_takeSentOk _)))
      (State.RunsAs.refl.trans (State.runsAs_takeSentOk s.sentCounted)) (fun h => ?_) (State.takeSentOk_staged _)
    rwa [State.hmn_takeSentOk] at h

/-- The level SOUND is in force where the order of a completed frame's reports puts the staging, if it has one (R131). -/
def stagesSound (order : FrameOrder) (before after : State) : Prop :=
  order = .idleBeforeScore ∧ before.hmn.level = .sound ∨ order = .idleAfterScore ∧ after.hmn.level = .sound

/-- An address clash, its line idle taken before or after its report (R20, R131). -/
theorem State.mayStart_addressClash (hs : s.SessionsHold) (hnone : s.txs.staged = none) (order : FrameOrder) :
    s.MayStart (stagesSound order s (s.addressClash order)) (s.addressClash order).txs.staged := by
  have hreported : ∀ v : State, v.reportClash.txs.staged = v.txs.staged := fun v =>
    State.staged_of_lineView v.lineView_reportClash
  have hcounted : (s.count .checkErrors).SessionsHold := hs.changes (s.changes_count _)
  cases order with
  | recordFirst =>
    have hstaged : (s.addressClash .recordFirst).txs.staged = none := (hreported _).trans hnone
    rw [hstaged]
    exact State.mayStart_none
  | idleAfterScore =>
    exact State.mayStart_chooseAndStage (hcounted.changes (State.changes_reportClash _))
      (State.runsAs_reportClash (s.count .checkErrors))
      (fun h => .inr ⟨rfl, (congrArg Hmn.level (State.hmn_chooseAndStage _)).trans h⟩) ((hreported _).trans hnone)
  | idleBeforeScore =>
    have hstaged : (s.addressClash .idleBeforeScore).txs.staged = (s.count .checkErrors).chooseAndStage.txs.staged :=
      hreported _
    rw [hstaged]
    exact State.mayStart_chooseAndStage hcounted State.RunsAs.refl (fun h => .inl ⟨rfl, h⟩) hnone

/-- A good frame, its line idle taken before or after its report, and its record last (R19, R131). -/
theorem State.mayStart_goodFrame (hs : s.SessionsHold) (hnone : s.txs.staged = none) (order : FrameOrder)
    (source : Address) (f : FrameBody) :
    s.MayStart (stagesSound order s (s.goodFrame order source f)) (s.goodFrame order source f).txs.staged := by
  have hreported : ∀ v : State, (v.healthReport .goodFrame).txs.staged = v.txs.staged := fun v =>
    State.staged_of_lineView (v.lineView_healthReport _)
  have hrecorded : ∀ v : State, (v.takeRecord source f).txs.staged = v.txs.staged := fun v =>
    State.staged_of_lineView (v.lineView_takeRecord source f)
  have hcounted : (s.count .framesReceived).SessionsHold := hs.changes (s.changes_count _)
  cases order with
  | recordFirst =>
    have hstaged : (s.goodFrame .recordFirst source f).txs.staged = none :=
      ((hrecorded _).trans (hreported _)).trans hnone
    rw [hstaged]
    exact State.mayStart_none
  | idleAfterScore =>
    have hstaged : (s.goodFrame .idleAfterScore source f).txs.staged
        = ((s.count .framesReceived).healthReport .goodFrame).chooseAndStage.txs.staged := hrecorded _
    have hlevel : (s.goodFrame .idleAfterScore source f).hmn = ((s.count .framesReceived).healthReport .goodFrame).hmn :=
      (State.hmn_takeRecord _ source f).trans (State.hmn_chooseAndStage _)
    rw [hstaged]
    exact State.mayStart_chooseAndStage (hcounted.changes (State.changes_healthReport _ _))
      (State.runsAs_healthReport (s.count .framesReceived) .goodFrame)
      (fun h => .inr ⟨rfl, (congrArg Hmn.level hlevel).trans h⟩) ((hreported _).trans hnone)
  | idleBeforeScore =>
    have hstaged : (s.goodFrame .idleBeforeScore source f).txs.staged
        = (s.count .framesReceived).chooseAndStage.txs.staged := (hrecorded _).trans (hreported _)
    rw [hstaged]
    exact State.mayStart_chooseAndStage hcounted State.RunsAs.refl (fun h => .inl ⟨rfl, h⟩) hnone

theorem State.checkError_staged (s : State) : s.checkError.txs.staged = s.txs.staged :=
  (State.staged_of_lineView (State.lineView_healthReport _ _)).trans rfl

/-- The end of a frame under reception: a check error, a clash or a good frame (R18, R19, R20). -/
theorem State.mayStart_receive (hs : s.SessionsHold) (hnone : s.txs.staged = none) (order : FrameOrder)
    (contention : BitVec 7) (bytes : List Byte) :
    s.MayStart (stagesSound order s (s.receive order contention bytes)) (s.receive order contention bytes).txs.staged := by
  have hcompleted : ∀ f, (s.onLiu f).SessionsHold := fun f => hs.change (.liu f)
  simp only [State.receive]
  split
  · rw [s.checkError_staged, hnone]
    exact State.mayStart_none
  · split
    · exact State.mayStart_addressClash (hcompleted _) hnone order
    · exact State.mayStart_goodFrame (hcompleted _) hnone order _ _

/-- An element read back leaves what is staged, or ends the frame: by SENT_OK, a lost contention or a fault (R7, R8, R22). -/
theorem State.mayStart_sampleReadback (hs : s.SessionsHold) (recessive : Bool) (order : FrameOrder) :
    (s.sampleReadback recessive order).txs.staged = s.txs.staged
        ∧ (s.sampleReadback recessive order).liu.staging = s.liu.staging
      ∨ s.MayStart (s.hmn.level = .sound) (s.sampleReadback recessive order).txs.staged := by
  unfold State.sampleReadback
  split
  · exact .inl ⟨rfl, rfl⟩
  · split
    · split
      · exact .inl ⟨rfl, rfl⟩
      · exact .inr (State.mayStart_sentOk hs _)
    · refine .inr ?_
      split
      · rw [State.loseContention_staged]
        exact State.mayStart_none
      · rw [State.readbackFault_staged]
        exact State.mayStart_none

end

end Sys2Proof.Machine
end

section
/-! PROOFS. Which events stage a frame, and what they stage (R98, R100, R102, R131). -/

namespace Sys2Proof.Machine

/-! ### Events that stage nothing -/

section
variable {s t : State} (hnone : s.txs.staged = none)
include hnone

/-- An event whose effect stages nothing. -/
theorem event_unstaged {r : Result} {reaches : State → Bool} {effect : State → State}
    (hr : r = event reaches effect s) (ht : r = .next t) (h : (effect s).txs.staged = none) : t.txs.staged = none := by
  rcases event_cases (hr.symm.trans ht) with ⟨-, -, rfl⟩ | ⟨-, rfl⟩
  · rw [State.finish_staged, h]
  · exact hnone

/-- An event whose effect the line does not see. -/
theorem event_unseen {r : Result} {reaches : State → Bool} {effect : State → State}
    (hr : r = event reaches effect s) (ht : r = .next t) (h : (effect s).lineView = s.lineView) : t.txs.staged = none :=
  event_unstaged hnone hr ht ((State.staged_of_lineView h).trans hnone)

theorem State.PortLeaves.unstaged {u : State} (h : s.PortLeaves u.lineView) : u.txs.staged = none := by
  rcases h with h | ⟨-, h⟩ | h
  · exact (State.staged_of_lineView h).trans hnone
  · exact (State.staged_of_lineView h).trans hnone
  · exact State.staged_of_lineView h

theorem State.endTransaction_unstaged : s.endTransaction.txs.staged = none := by
  rcases s.lineView_endTransaction with h | ⟨k, h⟩
  · exact (State.staged_of_lineView h).trans hnone
  · have hforgotten : s.endTransaction.txs.staged = s.txs.staged.map (StagingRecord.forget k) :=
      congrArg LineView.staged h
    rw [hforgotten, hnone]
    rfl

/-- No edge of SCLK and no byte stages a frame. -/
theorem takeInput_unstaged {i : Input} (hi : ∀ recessive order, i ≠ .bitTime recessive order)
    (ht : takeInput i s = .next t) : t.txs.staged = none := by
  cases i with
  | bitTime recessive order => exact absurd rfl (hi recessive order)
  | sclkRise mosi =>
    exact event_unstaged hnone (takeInput_sclkRise mosi s) ht ((s.portLeaves_clockRise mosi).unstaged hnone)
  | sclkFall => exact event_unseen hnone (takeInput_sclkFall s) ht s.lineView_clockFall
  | mosiByte byte =>
    exact event_unstaged hnone (takeInput_mosiByte byte s) ht ((s.portLeaves_clockByte byte).unstaged hnone)

/-- No command but CONTENTION_STARTED, SENT_OK and GOOD_FRAME stages a frame. -/
theorem exec_unstaged {c : Instr} (hstarted : c ≠ .contentionStarted) (hsent : ∀ first, c ≠ .sentOk first)
    (hgood : ∀ o k b, c ≠ .goodFrame o k b) (ht : exec c s = .next t) : t.txs.staged = none := by
  have hcommand : ∀ (c : HostCommand) (params : List Byte),
      hostCommand c params (judgementOf c) s = .next t → t.txs.staged = none := fun c params ht =>
    event_unstaged hnone rfl ht ((s.portLeaves_runCommand c params).unstaged hnone)
  cases c with
  | contentionStarted => exact absurd rfl hstarted
  | sentOk first => exact absurd rfl (hsent first)
  | goodFrame o k b => exact absurd rfl (hgood o k b)
  | pinReset =>
    cases ht
    rfl
  | rstnRelease straps csnLow =>
    rw [exec_rstnRelease] at ht
    cases ht
    split
    · rfl
    · exact hnone
  | timeStampTick => exact event_unseen hnone (exec_timeStampTick s) ht s.lineView_tick
  | transactionStart => exact event_unseen hnone (exec_transactionStart s) ht s.lineView_startTransaction
  | transactionEnd => exact event_unstaged hnone (exec_transactionEnd s) ht (State.endTransaction_unstaged hnone)
  | transactionCutShort => exact event_unseen hnone (exec_transactionCutShort s) ht (s.lineView_closePort true)
  | configure params => exact hcommand .configure params ht
  | start => exact hcommand .start [] ht
  | leave => exact hcommand .leave [] ht
  | reset => exact hcommand .reset [] ht
  | submit params => exact hcommand .submit params ht
  | cancel handle => exact hcommand .cancel [handle] ht
  | readMessage => exact hcommand .readMessage [] ht
  | readCompletion => exact hcommand .readCompletion [] ht
  | readNotice => exact hcommand .readNotice [] ht
  | readPeer address => exact hcommand .readPeer [address] ht
  | readStatus => exact hcommand .readStatus [] ht
  | readCounters => exact hcommand .readCounters [] ht
  | unknownCommand code =>
    exact event_unstaged hnone (exec_unknownCommand code s) ht ((s.portLeaves_runCommand .unknown []).unstaged hnone)
  | lineIdle => exact event_unstaged hnone (exec_lineIdle s) ht hnone
  | lostContention bit => exact event_unstaged hnone (exec_lostContention bit s) ht (s.loseContention_staged bit)
  | readbackFault element scoreFirst =>
    exact event_unstaged hnone (exec_readbackFault element scoreFirst s) ht (s.readbackFault_staged element scoreFirst)
  | checkError => exact event_unstaged hnone (exec_checkError s) ht (s.checkError_staged.trans hnone)
  | joinTimerExpiry p => exact event_unseen hnone (exec_joinTimerExpiry p s) ht (s.lineView_joinExpiry p)
  | silenceTimerExpiry p => exact event_unseen hnone (exec_silenceTimerExpiry p s) ht (s.lineView_losePeer p .silence)
  | ackTimerExpiry p => exact event_unseen hnone (exec_ackTimerExpiry p s) ht (s.lineView_ackExpiry p)
  | ackDelayExpiry p => exact event_unseen hnone (exec_ackDelayExpiry p s) ht (s.lineView_ackDelayExpiry p)
  | helloTimerExpiry => exact event_unseen hnone (exec_helloTimerExpiry s) ht s.lineView_startHello
  | holdoffExpiry => exact event_unstaged hnone (exec_holdoffExpiry s) ht hnone
  | leaveLimitExpiry => exact event_unstaged hnone (exec_leaveLimitExpiry s) ht rfl
  | receptionStart => exact event_unstaged hnone (exec_receptionStart s) ht hnone
  | chipSelectRiseAfterReset =>
    exact event_unseen hnone (exec_chipSelectRiseAfterReset s) ht (s.lineView_closePort s.hpt.port.aborted)

end

/-! ### Events that stage a frame -/

section
variable {s t : State}

theorem State.Lawful.sessionsHold (hs : s.Lawful) : s.SessionsHold :=
  have ⟨_, _, _, hslots, hpeers, hsession, hwindow, _, _⟩ := hs
  ⟨hslots, hpeers, hsession, hwindow⟩

theorem State.Lawful.lineLaw (hs : s.Lawful) : s.LineLaw :=
  have ⟨_, hline, _⟩ := hs
  hline

theorem State.Lawful.presentedLaw (hs : s.Lawful) : s.PresentedLaw :=
  have ⟨_, _, hpresented, _⟩ := hs
  hpresented

/-- A frame is staged only by a transmitting LIU (R12, R105). -/
theorem State.LineLaw.isTransmitting (hs : s.LineLaw) {r : StagingRecord} (hr : s.txs.staged = some r) :
    s.isTransmitting = true := by
  obtain ⟨hstaging, hstaged, hdisabled, -⟩ := hs
  rw [hr] at hstaged
  have htransmits : s.liu.line.transmits = true := hstaged.symm
  have henabled : s.enabled = true := by
    by_contra hno
    obtain ⟨hliu, -⟩ := hdisabled (by simpa using hno)
    rw [hliu] at htransmits
    cases htransmits
  refine State.isTransmitting_iff.2 ⟨henabled, ?_, hstaging.trans htransmits⟩
  cases hl : s.liu.line <;> simp_all [LineState.transmits]

/-- Nothing is staged while the LIU is receiving (R105). -/
theorem State.LineLaw.receiving_unstaged (hs : s.LineLaw) (hl : s.liu.line = .receiving) : s.txs.staged = none := by
  obtain ⟨-, hstaged, -⟩ := hs
  rw [hl] at hstaged
  simpa [LineState.transmits] using hstaged

variable (hs : s.Lawful)
include hs

/-- CONTENTION_STARTED stages what TXS presented (R6, R98). -/
theorem contentionStarted_mayStart (ht : exec .contentionStarted s = .next t) (hnone : s.txs.staged = none) :
    s.MayStart (s.hmn.level = .sound) t.txs.staged := by
  rcases event_cases ((exec_contentionStarted s).symm.trans ht) with ⟨-, hcan, rfl⟩ | ⟨-, rfl⟩
  · rw [State.finish_staged]
    exact State.mayStart_stage hs.sessionsHold hs.presentedLaw hcan
  · rw [hnone]
    exact State.mayStart_none

theorem sentOk_mayStart (hreset : s.inReset = false) {first : Bool} {r : StagingRecord} (hr : s.txs.staged = some r)
    (ht : exec (.sentOk first) s = .next t) : s.MayStart (s.hmn.level = .sound) t.txs.staged := by
  rcases event_cases ((exec_sentOk first s).symm.trans ht) with ⟨-, -, rfl⟩ | ⟨hno | hno, -⟩
  · rw [State.finish_staged]
    exact State.mayStart_sentOk hs.sessionsHold first
  · exact absurd (hreset.symm.trans hno) (by decide)
  · exact absurd ((hs.lineLaw.isTransmitting hr).symm.trans hno) (by decide)

theorem goodFrame_mayStart {order : FrameOrder} {contention : BitVec 7} {bytes : List Byte} (hl : s.liu.line = .receiving)
    (ht : exec (.goodFrame order contention bytes) s = .next t) : s.MayStart (stagesSound order s t) t.txs.staged := by
  have hnone := hs.lineLaw.receiving_unstaged hl
  rcases event_cases ((exec_goodFrame order contention bytes s).symm.trans ht) with ⟨-, -, rfl⟩ | ⟨-, rfl⟩
  · rw [State.finish_staged, stagesSound, State.finish_hmn]
    exact State.mayStart_receive hs.sessionsHold hnone order contention bytes
  · rw [hnone]
    exact State.mayStart_none

/-- A bit time in RECEIVING stages as the good frame it completes does (R19). -/
theorem bitTime_receiving_mayStart {recessive : Bool} {order : FrameOrder} (hl : s.liu.line = .receiving)
    (ht : takeInput (.bitTime recessive order) s = .next t) : s.MayStart (stagesSound order s t) t.txs.staged := by
  have hnone := hs.lineLaw.receiving_unstaged hl
  rcases event_cases ((takeInput_bitTime recessive order s).symm.trans ht) with ⟨-, -, rfl⟩ | ⟨-, rfl⟩
  · rw [State.finish_staged, stagesSound, State.finish_hmn, State.bitTime_receiving hl, State.sampleReceiving]
    split
    · rw [State.onLiu_txs, hnone]
      exact State.mayStart_none
    · rw [s.checkError_staged, hnone]
      exact State.mayStart_none
    · exact State.mayStart_receive hs.sessionsHold hnone order _ _
  · rw [hnone]
    exact State.mayStart_none

/-- A bit time in IDLE stages what is presented, and may end the frame staged; with nothing to stage, it stages nothing. -/
theorem State.sampleIdle_mayStart (recessive : Bool) (order : FrameOrder) :
    (s.sampleIdle recessive order).txs.staged = s.txs.staged
        ∧ (s.sampleIdle recessive order).liu.staging = s.liu.staging
      ∨ s.MayStart (s.hmn.level = .sound) (s.sampleIdle recessive order).txs.staged := by
  unfold State.sampleIdle
  split
  next hcan =>
    refine .inr ?_
    have hstaged := State.mayStart_stage hs.sessionsHold hs.presentedLaw hcan
    have hafter := hs.sessionsHold.changes (State.changes_stage hs.presentedLaw hcan)
    obtain ⟨liu, txs, hframe⟩ := s.stage_frame
    rcases State.mayStart_sampleReadback hafter recessive order with ⟨hkept, -⟩ | hstarts
    · rwa [hkept]
    · rw [hframe] at hstarts ⊢
      exact hstarts
  next =>
    refine .inl ?_
    split <;> exact ⟨rfl, rfl⟩

/-- A bit time outside RECEIVING leaves what is staged, or stages under the level it finds. -/
theorem bitTime_mayStart {recessive : Bool} {order : FrameOrder} (hl : s.liu.line ≠ .receiving)
    (ht : takeInput (.bitTime recessive order) s = .next t) :
    t.txs.staged = s.txs.staged ∧ t.liu.staging = s.liu.staging ∨ s.MayStart (s.hmn.level = .sound) t.txs.staged := by
  rcases event_cases ((takeInput_bitTime recessive order s).symm.trans ht) with ⟨-, -, rfl⟩ | ⟨-, rfl⟩
  · rw [State.finish_staged, State.finish_liu, State.bitTime]
    split
    · exact State.sampleIdle_mayStart hs recessive order
    · exact State.mayStart_sampleReadback hs.sessionsHold recessive order
    · exact State.mayStart_sampleReadback hs.sessionsHold recessive order
    next hreceiving => exact absurd hreceiving hl
    · refine .inl ?_
      unfold State.sampleRecovering
      split <;> exact ⟨rfl, rfl⟩
  · exact .inl ⟨rfl, rfl⟩

end

/-- Settles O24: each event that stages a frame stages one of the choice, and no other event stages any. -/
theorem startedFramesKeepCreditAndLevel : Obligations.StartedFramesKeepCreditAndLevel := by
  intro s t hs hreset starts
  refine ⟨fun ht hnone => ?_, fun first r hr ht => ?_, fun order contention bytes ⟨_, _, hl⟩ ht => ?_,
    fun recessive order ht => ⟨fun _ hl => ?_, fun hl => ?_⟩, fun i hi ht hnone => ?_,
    fun c hstarted hsent hgood ht hnone => ?_⟩
  · exact contentionStarted_mayStart hs ht hnone
  · exact sentOk_mayStart hs hreset hr ht
  · exact goodFrame_mayStart hs hl ht
  · exact bitTime_receiving_mayStart hs hl ht
  · exact bitTime_mayStart hs hl ht
  · exact takeInput_unstaged hnone hi ht
  · exact exec_unstaged hnone hstarted hsent hgood ht

end Sys2Proof.Machine
end

section
/-! PROOFS. The group filter table: the accepting entry of a tag, and its index in the record stored (R115, R116, R117). -/

namespace Sys2Proof.Machine

section
variable {filters : Vector FilterEntry 8} {tag : Byte}

/-- A tag matches an enabled entry whose masked bits it equals (R116). -/
theorem filterAccepts_iff {f : FilterEntry} :
    filterAccepts tag f = true ↔ f.enabled = true ∧ (tag ^^^ f.value) &&& f.mask = 0 := by
  rw [filterAccepts, Bool.and_eq_true, beq_iff_eq]

/-- The search of the table takes the first match, and no match lies below it (R116). -/
theorem acceptingEntry_eq_some_iff {i : Fin 8} :
    acceptingEntry filters tag = some i ↔
      filterAccepts tag filters[i] = true ∧ ∀ j, filterAccepts tag filters[j] = true → i ≤ j := by
  rw [acceptingEntry, ← Fin.find?_eq_find?_finRange, Fin.find?_eq_some_iff]
  refine and_congr_right fun _ => forall_congr' fun j => ?_
  rw [← Bool.not_eq_true, imp_not_comm, not_lt]

/-- The search of the table fails exactly where no entry matches (R116). -/
theorem acceptingEntry_eq_none_iff :
    acceptingEntry filters tag = none ↔ ∀ i : Fin 8, ¬filterAccepts tag filters[i] = true := by
  simp only [acceptingEntry, List.find?_eq_none, List.mem_finRange, true_implies]

end

/-- Settles O38: the search of the table finds the first match, and the store appends its record with that index. -/
theorem acceptingEntryIsLowestMatch : Obligations.AcceptingEntryIsLowestMatch := by
  refine ⟨fun filters tag => ⟨fun i => ?_, ?_⟩, fun s p tag payload i haccepts hroom => ?_⟩
  · simp only [acceptingEntry_eq_some_iff, filterAccepts_iff]
  · simp only [acceptingEntry_eq_none_iff, filterAccepts_iff]
  · rw [State.groupReceived_stored haccepts hroom]
    rfl

end Sys2Proof.Machine
end

section
/-! PROOFS. What the withdrawal of every peer changes, and entry into DETACHED (R133). -/

namespace Sys2Proof.Machine

/-- The session end of one peer as far as it acts on the slots, for a SYNCING or LINKED entry only (R31, R133, R150). -/
def State.endIfLive (s : State) (t : Txs) (p : Station) : Txs :=
  if (s.peer p).isLive then t.endSession p (s.peer p).oldestUnacked else t

/-- The slots after a withdrawal of one peer. -/
theorem State.withdrawPeer_txs (s : State) (p : Station) : (s.withdrawPeer p).txs = s.endIfLive s.txs p := by
  unfold State.withdrawPeer State.endIfLive
  split
  · rfl
  · split <;> rfl

/-- Withdrawals of distinct peers end the sessions in order. Each withdrawal looks at an entry that none before it has
changed, so the entries that decide are those of the start. -/
theorem State.foldl_withdrawPeer_txs (ps : List Station) (hps : ps.Nodup) (s : State) :
    (ps.foldl State.withdrawPeer s).txs = ps.foldl s.endIfLive s.txs := by
  induction ps generalizing s with
  | nil => rfl
  | cons p ps ih =>
    obtain ⟨hp, hps⟩ := List.nodup_cons.1 hps
    have hothers : ∀ t : Txs, ∀ q ∈ ps, (s.withdrawPeer p).endIfLive t q = s.endIfLive t q := fun t q hq => by
      have hne : p ≠ q := fun h => hp (h ▸ hq)
      rw [State.endIfLive, State.peer_withdrawPeer, if_neg hne]
      rfl
    rw [List.foldl_cons, ih hps, State.withdrawPeer_txs, List.foldl_cons, List.foldl_ext _ _ _ hothers]

theorem State.withdrawAll_txs (s : State) : s.withdrawAll.txs = stations.foldl s.endIfLive s.txs :=
  State.foldl_withdrawPeer_txs stations (List.nodup_finRange 31) s

/-- Withdrawals of peers act on the slots and the entries only. -/
theorem State.withdrawAll_frame (s : State) :
    ∃ txs peers, s.withdrawAll = { s with txs := txs, pen := { s.pen with peers := peers } } := by
  refine State.withdrawAll_induction
    (P := fun u => ∃ txs peers, u = { s with txs := txs, pen := { s.pen with peers := peers } })
    ⟨s.txs, s.pen.peers, rfl⟩ fun t p ht => ?_
  obtain ⟨txs, peers, rfl⟩ := ht
  rcases State.withdrawPeer_cases _ p with ⟨-, h⟩ | ⟨-, h⟩ | ⟨-, -, h⟩ <;> exact ⟨_, _, h⟩

/-- The withdrawal of every peer: the sessions end in ascending address, and each entry is withdrawn (R133, R150). -/
theorem State.withdrawAll_eq (s : State) :
    s.withdrawAll =
      { s with
        txs := stations.foldl s.endIfLive s.txs
        pen := { s.pen with peers := Vector.ofFn fun p : Station => (s.peer p).withdrawn } } := by
  obtain ⟨txs, peers, h⟩ := s.withdrawAll_frame
  have htxs : txs = stations.foldl s.endIfLive s.txs := by rw [← s.withdrawAll_txs, h]
  have hpeers : peers = Vector.ofFn fun p : Station => (s.peer p).withdrawn := by
    ext1 i hi
    have hi' := s.peer_withdrawAll ⟨i, hi⟩
    rw [h] at hi'
    rw [Vector.getElem_ofFn]
    exact hi'
  rw [h, htxs, hpeers]

/-- Settles O33: the withdrawal commutes with the change of the operating state, and its outcome is known whole. -/
theorem detachmentEndsEverySession : Obligations.DetachmentEndsEverySession := by
  intro s
  rw [State.enterDetached, State.withdrawAll_onControl, State.withdrawAll_eq]
  rfl

end Sys2Proof.Machine
end

section
/-! PROOFS. The reports to HMN: a score that moves is evaluated, and the level table decides (R127, R128, R129). -/

namespace Sys2Proof.Machine

section
variable {s : State}

/-! ### The level table on the state (R129) -/

theorem State.evaluateLevel_detaches (h : 192 ≤ s.hmn.score) : s.evaluateLevel = s.enterDetached := by
  simp only [State.evaluateLevel, levelStep, if_pos h]

theorem State.evaluateLevel_becomesGuarded (hlt : s.hmn.score < 192) (hl : s.hmn.level = .sound)
    (h : 96 ≤ s.hmn.score) :
    s.evaluateLevel = (s.onHmn fun m => { m with level := .guarded }).raise (.healthChanged .guarded) := by
  simp only [State.evaluateLevel, levelStep, if_neg hlt.not_ge, hl, if_pos h]

theorem State.evaluateLevel_becomesSound (hl : s.hmn.level = .guarded) (h : s.hmn.score < 64) :
    s.evaluateLevel = (s.onHmn fun m => { m with level := .sound }).raise (.healthChanged .sound) := by
  have hlt : ¬192 ≤ s.hmn.score := by omega
  simp only [State.evaluateLevel, levelStep, if_neg hlt, hl, if_pos h]

theorem State.evaluateLevel_keeps
    (h : s.hmn.level = .sound ∧ s.hmn.score < 96 ∨ s.hmn.level = .guarded ∧ 64 ≤ s.hmn.score ∧ s.hmn.score < 192) :
    s.evaluateLevel = s := by
  have hlt : ¬192 ≤ s.hmn.score := by omega
  rcases h with ⟨hl, h⟩ | ⟨hl, h, -⟩
  · simp only [State.evaluateLevel, levelStep, if_neg hlt, hl, if_neg h.not_ge]
  · simp only [State.evaluateLevel, levelStep, if_neg hlt, hl, if_neg h.not_gt]

/-! ### A report (R127, R128) -/

theorem State.healthReport_unmoved {r : HealthReport} (h : scoreAfter r s.hmn.score = s.hmn.score) :
    s.healthReport r = s := by
  simp [State.healthReport, h]

theorem State.healthReport_moved {r : HealthReport} (hrunning : s.control.opState = .running)
    (h : scoreAfter r s.hmn.score ≠ s.hmn.score) :
    s.healthReport r = (s.onHmn fun m => { m with score := scoreAfter r m.score }).evaluateLevel := by
  simp [State.healthReport, State.isRunning, hrunning, h]

end

/-- Settles O32: outside RUNNING or with its score unmoved a report does nothing, and else the level table gives each
clause. -/
theorem healthReportsMoveScoreAndLevel : Obligations.HealthReportsMoveScoreAndLevel := by
  intro s r score hscore scored
  obtain rfl : score = scoreAfter r s.hmn.score := by cases r <;> exact hscore
  refine ⟨fun hstill => ?_, fun hrunning hne => ?_⟩
  · rcases hstill with hidle | hsame
    · exact State.healthReport_notRunning (beq_eq_false_iff_ne.2 hidle)
    · exact State.healthReport_unmoved hsame
  · have hmoved : s.healthReport r = scored.evaluateLevel := State.healthReport_moved hrunning hne
    rw [hmoved]
    exact ⟨State.evaluateLevel_detaches (s := scored), State.evaluateLevel_becomesGuarded (s := scored),
      fun h hl => State.evaluateLevel_becomesSound (s := scored) hl h, State.evaluateLevel_keeps (s := scored)⟩

end Sys2Proof.Machine
end

section
/-! PROOFS. PIN_RESET, RSTN_RELEASE and RESET, and the laws of the state after reset (R141, R142, R154). -/

namespace Sys2Proof.Machine

/-! ### The peer table after a reset (R24) -/

theorem initialPeers_eq (own : Address) :
    initialPeers own = Vector.ofFn fun p : Station =>
      if stationAddress p = own then PeerEntry.selfEntry else PeerEntry.absentEntry := by
  ext1 i hi
  have hown : stationAddress ⟨i, hi⟩ = own ↔ own.toNat = i := by
    rw [← BitVec.toNat_inj, stationAddress_toNat, eq_comm]
  simp only [Vector.getElem_ofFn, hown, initialPeers]
  split
  next => simp only [Vector.getElem_set, Vector.getElem_replicate]
  next hout =>
    have hne : own.toNat ≠ i := by omega
    rw [if_neg hne, Vector.getElem_replicate]

theorem stationAddress_eq_zero_iff (p : Station) : stationAddress p = 0 ↔ p = 0 := by
  rw [← BitVec.toNat_inj, stationAddress_toNat, Fin.ext_iff]
  rfl

/-! ### RSTn low (R141, R168) -/

/-- While RSTn is held low every command but RSTn's own edges is an event that does not reach the part. -/
theorem exec_held {c : Instr} {s : State} (hheld : s.inReset = true) (hreset : c ≠ .pinReset)
    (hrelease : ∀ a low, c ≠ .rstnRelease a low) : exec c s = .next s := by
  cases c with
  | pinReset => exact absurd rfl hreset
  | rstnRelease straps csnLow => exact absurd rfl (hrelease straps csnLow)
  | timeStampTick => exact (exec_timeStampTick s).trans (event_held hheld)
  | transactionEnd => exact (exec_transactionEnd s).trans (event_held hheld)
  | transactionCutShort => exact (exec_transactionCutShort s).trans (event_held hheld)
  | unknownCommand code => exact (exec_unknownCommand code s).trans (event_held hheld)
  | _ => exact event_held hheld

theorem takeInput_held {i : Input} {s : State} (hheld : s.inReset = true) : takeInput i s = .next s := by
  cases i with
  | bitTime recessive order => exact (takeInput_bitTime recessive order s).trans (event_held hheld)
  | sclkRise mosi => exact (takeInput_sclkRise mosi s).trans (event_held hheld)
  | sclkFall => exact (takeInput_sclkFall s).trans (event_held hheld)
  | mosiByte byte => exact (takeInput_mosiByte byte s).trans (event_held hheld)

/-- Settles O3: the state held in reset, and that nothing but RSTn's own edges reaches it. -/
theorem pinResetDiscardsEverything : Obligations.PinResetDiscardsEverything := by
  refine ⟨fun s => ?_, fun c s => exec_held, fun i s hheld => ⟨takeInput_held hheld, if_pos hheld⟩⟩
  have hpeers : initialPeers 0 = Vector.ofFn fun p : Station =>
      if p = 0 then PeerEntry.selfEntry else PeerEntry.absentEntry := by
    simp only [initialPeers_eq, stationAddress_eq_zero_iff]
  rw [← hpeers, exec_pinReset]
  rfl

/-- Settles O4: the release samples the straps, and the rise of CSn opens a port that waits for it. -/
theorem releaseEntersUnconfigured : Obligations.ReleaseEntersUnconfigured := by
  refine ⟨fun s straps csnLow hheld => ?_, fun s straps csnLow hreset => ?_, fun s hreset hphase => ⟨?_, ?_⟩⟩
  · rw [← initialPeers_eq, exec_rstnRelease, if_pos hheld]
    rfl
  · rw [exec_rstnRelease, hreset]
    rfl
  · exact event_leaves (exec_chipSelectRiseAfterReset s) hreset (beq_iff_eq.2 hphase) rfl
  · rw [exec_transactionStart]
    exact event_ignored (by rw [State.portIs, hphase]; rfl)

/-! ### The soft reset (R154) -/

/-- The soft reset with its operating state and epoch by cases of the configuration (R27, R154). -/
theorem State.softReset_control (s : State) :
    s.softReset.control =
      { ownAddr := s.control.ownAddr
        opState := if s.control.config = none then .unconfigured else .ready
        config := s.control.config
        epoch := if s.control.config = none then s.control.epoch
          else if s.control.epoch = 255 then 1 else s.control.epoch + 1
        leavingHelloDue := false
        leaveLimit := 0 } := by
  cases hconfig : s.control.config <;> simp [State.softReset, nextEpoch, hconfig]

/-- Settles O16: the judgement of RESET is the soft reset, whose control section is known by cases. -/
theorem softResetKeepsConfigurationAndCounters : Obligations.SoftResetKeepsConfigurationAndCounters := by
  intro s hs
  refine hostCommand_leaves (exec_reset s) hs rfl ?_
  rw [← initialPeers_eq, ← State.softReset_control]
  rfl

/-! ### The state after reset (R142) -/

theorem State.controlLaw_reset : State.reset.ControlLaw := by
  simp [State.ControlLaw, State.reset, State.initial, Hmn.cleared]

theorem State.lawful_reset : State.reset.Lawful := by
  obtain ⟨hsession, hwindow⟩ := State.sessions_of_cleared (s := .reset) rfl rfl
  exact ⟨State.controlLaw_reset, State.lineLaw_of_disabled rfl rfl rfl rfl, nofun, Txs.slotLaw_cleared,
    State.peerLaw_initial rfl, hsession, hwindow, State.entryLaw_initial rfl,
    State.storeLaw_of_empty ⟨rfl, rfl, rfl⟩ (by decide) (State.reservation_initial rfl)⟩

/-- A port between two bytes outside a transaction meets its law (R157). -/
theorem State.portLaw_reset : State.reset.PortLaw := State.portLaw_closePort .reset false

theorem State.boundsLaw_reset : State.reset.BoundsLaw :=
  ⟨Nat.zero_le _, by decide, Nat.zero_le _, Nat.zero_le _⟩

theorem State.messageLaw_reset : State.reset.MessageLaw := by
  have hfree : ∀ h, State.reset.txs.slot h = .free := fun h => Vector.getElem_replicate h.isLt
  refine ⟨fun h m hm => ?_, nofun⟩
  rw [hfree] at hm
  cases hm

/-- Settles O60: each law from what a cleared block meets, and the outputs as they are reset. -/
theorem resetMeetsEveryLaw : Obligations.ResetMeetsEveryLaw :=
  ⟨State.lawful_reset, State.assemblyLaw_of_bits (bits := []) rfl (Nat.zero_le 7), rfl, State.boundsLaw_reset,
    State.messageLaw_reset, State.portLaw_reset, State.carryLaws_initial rfl, rfl, rfl, rfl, rfl, rfl, rfl, rfl, rfl,
    rfl⟩

end Sys2Proof.Machine
end

section
/-! PROOFS. TIME_STAMP_TICK (R46, R68, R142). -/

namespace Sys2Proof.Machine

theorem mapPeers_eq_ofFn (f : PeerEntry → PeerEntry) (v : Vector PeerEntry 31) :
    mapPeers f v = Vector.ofFn fun p : Station => f v[p] := by
  ext1 i hi
  rw [Vector.getElem_ofFn]
  exact mapPeers_getElem f v ⟨i, hi⟩

theorem State.timersHeld_iff {s : State} : s.timersHeld = true ↔ s.hmn.level = .guarded := beq_iff_eq

/-- Settles O5: the tick is an event that always reaches the part, and each entry's timers are those of its tick. -/
theorem tickAdvancesStampAndTimers : Obligations.TickAdvancesStampAndTimers := by
  refine ⟨⟨rfl, rfl, fun _ => rfl⟩, fun s hreset => event_leaves (exec_timeStampTick s) hreset rfl ?_⟩
  simp only [State.tick, mapPeers_eq_ofFn, PeerEntry.tick, State.timersHeld_iff]
  rfl

end Sys2Proof.Machine
end

section
/-! PROOFS. CONFIGURE and START, and the state commands refused (R140, R144, R145, R146, R148). -/

namespace Sys2Proof.Machine

/-! ### The record that 31 bytes spell (R145, R170) -/

theorem wordAt_toNat (b : List Byte) (i : Nat) :
    (wordAt b i).toNat = 256 * (byteAt b i).toNat + (byteAt b (i + 1)).toNat := by
  rw [wordAt_eq, BitVec.toNat_ofNat]
  omega

/-- The bit rate of each code that passes (R145 index 1). -/
theorem bitRateOfCode_of_mem {code : Byte} {rate : BitRate}
    (h : (code, rate) ∈ [((0 : Byte), BitRate.kbit125), (1, .kbit250), (2, .kbit500), (3, .kbit1000), (4, .kbit2000)]) :
    code.toNat ≤ 4 ∧ bitRateOfCode code.toNat = rate := by
  simp only [List.mem_cons, List.not_mem_nil, or_false, Prod.mk.injEq] at h
  rcases h with ⟨rfl, rfl⟩ | ⟨rfl, rfl⟩ | ⟨rfl, rfl⟩ | ⟨rfl, rfl⟩ | ⟨rfl, rfl⟩ <;> decide

/-- The filter table of a record, entry by entry (R115, R170). -/
theorem configOf_readRecord_filters (b : List Byte) :
    (configOf (readRecord b)).filters
      = Vector.ofFn fun i => ⟨byteAt b (14 + i.val), byteAt b (22 + i.val), (byteAt b 30).getLsbD i.val⟩ := rfl

/-- No check fails exactly where every check passes (R144). -/
theorem firstFailingCheck_eq_none_iff {own : Address} {r : RawRecord} :
    firstFailingCheck own r = none ↔ ∀ c ∈ recordChecks own r, c = true := by
  simp [firstFailingCheck, List.findIdx?_eq_none_iff]

/-- The first check that fails is one that fails after checks that all pass (R144). -/
theorem firstFailingCheck_eq_some {own : Address} {r : RawRecord} {i : Nat}
    (hbefore : ∀ j < i, (recordChecks own r)[j]? = some true) (hfails : (recordChecks own r)[i]? = some false) :
    firstFailingCheck own r = some i := by
  obtain ⟨hi, hat⟩ := List.getElem?_eq_some_iff.1 hfails
  refine List.findIdx?_eq_some_iff_getElem.2 ⟨hi, by rw [hat]; rfl, fun j hj => ?_⟩
  obtain ⟨_, hpasses⟩ := List.getElem?_eq_some_iff.1 (hbefore j hj)
  rw [hpasses]
  nofun

/-! ### The judgements (R140, R144, R148) -/

section
variable {s : State} {b : List Byte}

theorem judgeConfigure_accepted (ho : s.control.opState = .unconfigured)
    (hpasses : firstFailingCheck s.control.ownAddr (readRecord b) = none) :
    judgeConfigure b s = (s.acceptConfig (configOf (readRecord b)), .bare .ok) := by
  simp only [judgeConfigure, if_pos ho, hpasses]

theorem judgeConfigure_badConfig {i : Nat} (ho : s.control.opState = .unconfigured)
    (hfails : firstFailingCheck s.control.ownAddr (readRecord b) = some i) :
    judgeConfigure b s = (s, ⟨.badConfig, [byteOf i]⟩) := by
  simp only [judgeConfigure, if_pos ho, hfails]

theorem judgeConfigure_wrongState (ho : s.control.opState ≠ .unconfigured) :
    judgeConfigure b s = (s, .bare .wrongState) := if_neg ho

theorem judgeStart_accepted (ho : s.control.opState = .ready) : judgeStart b s = (s.startRun, .bare .ok) := if_pos ho

theorem judgeStart_wrongState (ho : s.control.opState ≠ .ready) : judgeStart b s = (s, .bare .wrongState) := if_neg ho

theorem judgeLeave_accepted (ho : s.control.opState = .running ∨ s.control.opState = .detached) :
    judgeLeave b s = (s.beginLeaving, .bare .ok) :=
  if_pos (by rcases ho with ho | ho <;> rw [ho] <;> rfl)

theorem judgeLeave_wrongState (hrunning : s.control.opState ≠ .running) (hdetached : s.control.opState ≠ .detached) :
    judgeLeave b s = (s, .bare .wrongState) :=
  if_neg (by cases ho : s.control.opState <;> simp_all [OpState.takesMessages])

end

/-- Settles O12: every check passes, and the record is read field by field. -/
theorem configureInRangeIsAccepted : Obligations.ConfigureInRangeIsAccepted := by
  intro s b rate hs ho hb word hown hrate hepoch hquota hquota' hheadroom hdelay htimeout htimeout' htwice hretries
    hretries' hhello hhello' hsilence hsilence' hholdoff hholdoff'
  have hword : ∀ i, (wordAt b i).toNat = word i := wordAt_toNat b
  obtain ⟨hcode, hrate⟩ := bitRateOfCode_of_mem hrate
  have hpasses : firstFailingCheck s.control.ownAddr (readRecord b) = none := by
    refine firstFailingCheck_eq_none_iff.2 ?_
    simp only [recordChecks, readRecord, hword, List.forall_mem_cons, decide_eq_true_eq]
    exact ⟨hown, hcode, hepoch, ⟨hquota, hquota'⟩, hheadroom, hdelay, ⟨htimeout, htimeout', htwice⟩,
      ⟨hretries, hretries'⟩, ⟨hhello, hhello'⟩, ⟨hsilence, hsilence'⟩, ⟨hholdoff, hholdoff'⟩, nofun⟩
  refine hostCommand_leaves (exec_configure b s) hs hb ?_
  rw [judgeConfigure_accepted ho hpasses, ← hrate, ← configOf_readRecord_filters, ← hword, ← hword, ← hword]
  rfl

/-- Settles O13: the first failing check gives the answer, and the operating state refuses the rest. -/
theorem stateCommandsAreRefused : Obligations.StateCommandsAreRefused := by
  refine ⟨fun s b i hs hb ho => ?_, fun s b hs hb ho => ?_, fun s hs ho => ?_, fun s hs hrunning hdetached => ?_⟩
  · intro word checks hbefore hfails
    have hword : ∀ i, (wordAt b i).toNat = word i := wordAt_toNat b
    have hepoch : byteAt b 1 ≠ 0 ↔ 1 ≤ (byteAt b 1).toNat := by bv_omega
    have hchecks : recordChecks s.control.ownAddr (readRecord b) = checks := by
      simp only [recordChecks, readRecord, hword, hepoch]
      rfl
    have hfirst := firstFailingCheck_eq_some (hchecks ▸ hbefore) (hchecks ▸ hfails)
    exact hostCommand_leaves (exec_configure b s) hs hb (by rw [judgeConfigure_badConfig ho hfirst]; rfl)
  · exact hostCommand_leaves (exec_configure b s) hs hb (by rw [judgeConfigure_wrongState ho]; rfl)
  · exact hostCommand_leaves (exec_start s) hs rfl (by rw [judgeStart_wrongState ho]; rfl)
  · exact hostCommand_leaves (exec_leave s) hs rfl (by rw [judgeLeave_wrongState hrunning hdetached]; rfl)

/-- Settles O14: START is judged in READY. -/
theorem startEntersRunning : Obligations.StartEntersRunning := by
  intro s hs ho
  exact hostCommand_leaves (exec_start s) hs rfl (by rw [judgeStart_accepted ho]; rfl)

end Sys2Proof.Machine
end

section
/-! PROOFS. LEAVE, and the end of LEAVING (R111, R112, R150, R152, R153). -/

namespace Sys2Proof.Machine

/-- What LEAVE leaves, whole: the cancellations change no entry, so the sessions that end are those of the state before it
(R150). -/
theorem State.beginLeaving_whole (s : State) :
    s.beginLeaving =
      { s with
        control := { s.control with
          opState := .leaving, leavingHelloDue := true, leaveLimit := s.cfg.helloInterval }
        hmn := { s.hmn with holdoff := 0 }
        txs := stations.foldl s.endIfLive (s.txs.completeAll .cancelled s.txs.unstagedQueued)
        pen :=
          { peers := Vector.ofFn fun p : Station => (s.peer p).withdrawn
            helloTimer := 0
            helloDue := false } } := by
  have hends : s.unstagedCancelled.endIfLive = s.endIfLive := rfl
  have hentries : ∀ p, s.unstagedCancelled.peer p = s.peer p := fun _ => rfl
  have hslots : s.unstagedCancelled.txs = s.txs.completeAll .cancelled s.txs.unstagedQueued := rfl
  rw [State.beginLeaving_eq, State.withdrawAll_eq]
  simp only [hends, hentries, hslots, State.onHmn, State.onControl, State.onPen]
  simp only [State.unstagedCancelled, State.onTxs]

/-- Settles O15: LEAVE is judged in RUNNING and DETACHED. -/
theorem leaveCancelsThenEndsSessions : Obligations.LeaveCancelsThenEndsSessions := by
  intro s hs ho
  refine hostCommand_leaves (exec_leave s) hs rfl ?_
  rw [judgeLeave_accepted ho, State.beginLeaving_whole]
  rfl

/-! ### The end of LEAVING -/

/-- The part out of LEAVING is READY with its LIU disabled: no frame is staged, and HMN takes no report (R11, R128, R153). -/
theorem State.endLeaving_settled (s : State) (timedOut : Bool) (r : HealthReport) :
    (s.endLeaving timedOut).chooseAndStage.healthReport r = s.endLeaving timedOut := by
  have hstaging : (s.endLeaving timedOut).chooseAndStage = s.endLeaving timedOut := rfl
  rw [hstaging]
  exact State.healthReport_notRunning rfl

/-- SENT_OK of the LEAVING HELLO ends LEAVING, in either order of its reports (R131, R152). -/
theorem State.sentOk_leavingHello {s : State} {e : Epoch} (hstaged : s.txs.staged = some (.leavingHello e))
    (ho : s.control.opState = .leaving) (stagingFirst : Bool) :
    s.sentOk stagingFirst = s.sentCounted.endLeaving false := by
  have hends : s.sentCounted.takeSentOk = s.sentCounted.endLeaving false := by
    have hstaged' : s.sentCounted.txs.staged = some (.leavingHello e) := hstaged
    have ho' : s.sentCounted.control.opState = .leaving := ho
    simp only [State.takeSentOk, hstaged', if_pos ho']
  cases stagingFirst with
  | true =>
    have horder : s.sentOk true = s.sentCounted.takeSentOk.chooseAndStage.healthReport .sentOk := rfl
    rw [horder, hends, State.endLeaving_settled]
  | false =>
    have horder : s.sentOk false = (s.sentCounted.healthReport .sentOk).takeSentOk := rfl
    have hrunning : s.sentCounted.isRunning = false := beq_eq_false_iff_ne.2 (by simp [State.sentCounted, ho])
    rw [horder, State.healthReport_notRunning hrunning, hends]

theorem leaveLimitExpiry_leaves {s u : State} (hreset : s.inReset = false) (ho : s.control.opState = .leaving)
    (hlimit : s.control.leaveLimit = 1) (hu : (s.endLeaving true).withoutOutputs = u.withoutOutputs) :
    Leaves .leaveLimitExpiry s u :=
  event_leaves (exec_leaveLimitExpiry s) hreset (State.leaveLimitMayExpire_iff.2 ⟨ho, hlimit⟩) hu

/-- Settles O31: both ends of LEAVING, with or without a staged GROUP to cancel at the limit. -/
theorem leavingEndsInReady : Obligations.LeavingEndsInReady := by
  refine ⟨fun s e stagingFirst ⟨hreset, htransmits, hstaged⟩ ho => ?_, fun s hreset ho hlimit hnone => ?_,
    fun s h m hreset ho hlimit hstaged hqueued => ?_⟩
  · refine event_leaves (exec_sentOk stagingFirst s) hreset htransmits ?_
    rw [State.sentOk_leavingHello hstaged ho]
    rfl
  · refine leaveLimitExpiry_leaves hreset ho hlimit ?_
    simp only [State.endLeaving, if_true, State.onTxs, Txs.cancelStagedGroup_none hnone]
    rfl
  · refine leaveLimitExpiry_leaves hreset ho hlimit ?_
    simp only [State.endLeaving, if_true, State.onTxs, Txs.cancelStagedGroup_queued hstaged hqueued]
    rfl

end Sys2Proof.Machine
end

section
/-! PROOFS. IRQn follows the queues whose interrupt is enabled (R169). -/

namespace Sys2Proof.Machine

/-- A cause of IRQn is a queue that is not empty and whose interrupt is enabled (R169). -/
theorem State.irqCause_iff {s : State} :
    s.irqCause = true ↔ (s.cfg.deliveryInterrupt = true ∧ s.mst.delivery ≠ [])
      ∨ (s.cfg.completionInterrupt = true ∧ s.txs.completions ≠ [])
      ∨ (s.cfg.noticeInterrupt = true ∧ s.hpt.notices ≠ []) := by
  simp [State.irqCause, or_assoc]

theorem State.irqLaw_iff {s : State} :
    s.IrqLaw ↔ (s.hpt.irqnLow = true ↔ (s.cfg.deliveryInterrupt = true ∧ s.mst.delivery ≠ [])
      ∨ (s.cfg.completionInterrupt = true ∧ s.txs.completions ≠ [])
      ∨ (s.cfg.noticeInterrupt = true ∧ s.hpt.notices ≠ [])) := by
  rw [State.IrqLaw, Bool.eq_iff_iff, State.irqCause_iff]

/-- Every event ends with IRQn following its causes; at the reset values no queue has a record and IRQn is high. -/
theorem EventLeaves.irqLaw {s t : State} (h : EventLeaves s t) (hs : s.IrqLaw) : t.IrqLaw := by
  rcases h with rfl | ⟨u, -, rfl⟩ | ⟨own, phase, low, rfl⟩
  · exact hs
  · exact u.finish_irqLaw
  · rfl

/-- A step is a command or an input taken on the state without what it takes, or nothing. -/
theorem step_eventLeaves {s t : State} (ht : step s = .next t) :
    ∃ pending inputs, EventLeaves { s with pending := pending, inputs := inputs } t := by
  unfold step at ht
  split at ht
  next c rest _ =>
    obtain ⟨u, hu, hleaves⟩ := exec_eventLeaves c { s with pending := rest }
    obtain rfl := Host.Outcome.next.inj (hu.symm.trans ht)
    exact ⟨_, _, hleaves⟩
  next =>
    split at ht
    · obtain rfl := Host.Outcome.next.inj ht
      exact ⟨_, _, .inl rfl⟩
    next i rest _ =>
      obtain ⟨u, hu, hleaves⟩ := takeInput_eventLeaves i { s with inputs := rest }
      obtain rfl := Host.Outcome.next.inj (hu.symm.trans ht)
      exact ⟨_, _, hleaves⟩

/-- Settles O51: what waits is none of the causes, and every event keeps IRQn at them. -/
theorem irqFollowsEnabledQueues : Obligations.IrqFollowsEnabledQueues := by
  intro s t follows hs ht
  obtain ⟨pending, inputs, hleaves⟩ := step_eventLeaves ht
  exact State.irqLaw_iff.1 (hleaves.irqLaw (State.irqLaw_iff.2 hs))

end Sys2Proof.Machine
end

section
/-! PROOFS. A transaction up to its judgement, and the commands that read the head of a queue (R83, R96, R158, R159, R164,
R174, R179). -/

namespace Sys2Proof.Machine

/-! ### The summary byte (R159) -/

/-- Six fields put side by side in a byte, and each read back from its place. -/
theorem summaryFields_read : ∀ (notices completions delivery : Bool) (level : BitVec 1) (opState : BitVec 3),
    let byte : Byte := (0 : BitVec 1) ++ bitOf notices ++ bitOf completions ++ bitOf delivery ++ level ++ opState
    byte.getLsbD 7 = false ∧ byte.getLsbD 6 = notices ∧ byte.getLsbD 5 = completions ∧ byte.getLsbD 4 = delivery
      ∧ byte.getLsbD 3 = level.getLsbD 0 ∧ byte.extractLsb' 0 3 = opState := by decide

theorem Level.code_getLsbD_iff (l : Level) : l.code.getLsbD 0 = true ↔ l = .guarded := by cases l <;> decide

theorem not_isEmpty_iff {α : Type} {l : List α} : (!l.isEmpty) = true ↔ l ≠ [] := by simp

/-! ### Parameters that are not complete (R144, R160) -/

theorem State.TakesCommand.takesCode {s : State} (hs : s.TakesCommand) : s.takesCode = true := by
  obtain ⟨-, hphase, hbits, hheld⟩ := hs
  simp [State.takesCode, State.portIs, Port.atByte, hphase, hbits, hheld]

/-- A host command in COMMAND with fewer parameter bytes than it takes leaves them with the port. -/
theorem hostCommand_waits {i : Instr} {c : HostCommand} {params : List Byte} {judge : Judgement} {s : State}
    (hi : exec i s = hostCommand c params judge s) (hs : s.TakesCommand) (hshort : params.length < paramsNeeded c params) :
    Leaves i s (s.onHpt fun t => { t with port := t.port.awaitParams c params }) :=
  event_leaves hi hs.1 hs.takesCode (by rw [State.runCommand_short s c params judge hshort])

/-- A SUBMIT takes the six bytes of its head, and then the payload that a length byte within the limit asks for (R93). -/
theorem paramsNeeded_submit_eq (params : List Byte) :
    paramsNeeded .submit params =
      if params.length < 6 ∨ 48 < (byteAt params 5).toNat then 6 else 6 + (byteAt params 5).toNat := by
  by_cases hhead : params.length < 6
  · rw [paramsNeeded, if_pos hhead, if_pos (.inl hhead)]
  by_cases hlong : 48 < (byteAt params 5).toNat
  · have hnone : submitPayloadBytes (byteAt params 5) = 0 := if_neg (Nat.not_le.2 hlong)
    rw [paramsNeeded, if_neg hhead, if_pos (.inr hlong), hnone]
  · rw [paramsNeeded, if_neg hhead, if_neg (not_or.2 ⟨hhead, hlong⟩), submitPayloadBytes_of_le (Nat.not_lt.1 hlong)]

theorem submit_short {params : List Byte}
    (h : params.length < 6
      ∨ params.length < 6 + (if (byteAt params 5).toNat ≤ 48 then (byteAt params 5).toNat else 0)) :
    params.length < paramsNeeded .submit params := by
  rw [paramsNeeded_submit_eq]
  split_ifs at h ⊢ <;> omega

/-- Settles O6: the summary byte field by field, the parameters that wait, and the cut. -/
theorem transactionsRunUntilJudged : Obligations.TransactionsRunUntilJudged := by
  refine ⟨fun s hreset hphase => ?_, fun s params hs => ⟨fun hshort => ?_, fun hshort => ?_⟩, fun s hreset hphase => ?_⟩
  · obtain ⟨hzero, hnotices, hcompletions, hdelivery, hlevel, hstate⟩ :=
      summaryFields_read (!s.hpt.notices.isEmpty) (!s.txs.completions.isEmpty) (!s.mst.delivery.isEmpty)
        s.hmn.level.code s.control.opState.code
    refine ⟨s.summary, hzero, hnotices ▸ not_isEmpty_iff, hcompletions ▸ not_isEmpty_iff, hdelivery ▸ not_isEmpty_iff,
      hlevel ▸ s.hmn.level.code_getLsbD_iff, hstate.trans (by cases s.control.opState <;> rfl), ?_⟩
    exact event_leaves (exec_transactionStart s) hreset (beq_iff_eq.2 hphase) rfl
  · exact hostCommand_waits (exec_configure params s) hs hshort
  · exact hostCommand_waits (exec_submit params s) hs (submit_short hshort)
  · have hunfinished : s.hpt.port.phase.unfinished = true := by rcases hphase with h | h | h <;> rw [h] <;> rfl
    exact event_leaves (exec_transactionCutShort s) hreset hunfinished rfl

/-! ### The judgements of the reading commands (R83, R96, R179) -/

section
variable {s : State} {params : List Byte}

theorem judgeReadMessage_empty (h : s.mst.delivery = []) : judgeReadMessage params s = (s, .bare .empty) := by
  rw [judgeReadMessage, h]

theorem judgeReadMessage_head {r : DeliveryRecord} {rest : List DeliveryRecord} (h : s.mst.delivery = r :: rest) :
    judgeReadMessage params s = (s, ⟨.ok, r.resultBytes⟩) := by
  rw [judgeReadMessage, h]

theorem judgeReadCompletion_empty (h : s.txs.completions = []) :
    judgeReadCompletion params s = (s, .bare .empty) := by
  rw [judgeReadCompletion, h]

theorem judgeReadCompletion_head {h : Handle} {rest : List Handle} (hc : s.txs.completions = h :: rest) :
    judgeReadCompletion params s = (s, ⟨.ok, completionBytes h (s.txs.slot h)⟩) := by
  rw [judgeReadCompletion, hc]

theorem judgeReadNotice_empty (h : s.hpt.notices = []) : judgeReadNotice params s = (s, .bare .empty) := by
  rw [judgeReadNotice, h]

theorem judgeReadNotice_head {n : Notice} {rest : List Notice} (h : s.hpt.notices = n :: rest) :
    judgeReadNotice params s = (s, ⟨.ok, n.resultBytes⟩) := by
  rw [judgeReadNotice, h]

end

/-- A command without parameters whose judgement leaves the part as it is leaves its answer. -/
theorem hostCommand_answers {i : Instr} {c : HostCommand} {judge : Judgement} {s : State} {r : Reply}
    (hi : exec i s = hostCommand c [] judge s) (hs : s.TakesCommand) (hneed : paramsNeeded c [] = 0)
    (hjudged : judge [] s = (s, r)) : Leaves i s (s.answered c [] r.status r.results) :=
  hostCommand_leaves hi hs hneed.symm (by rw [hjudged])

/-- Settles O10: each queue empty or with its head record, and the bytes of that record. -/
theorem readingCommandsAnswerTheHead : Obligations.ReadingCommandsAnswerTheHead := by
  refine ⟨fun status => by cases status <;> rfl, fun s hs => ⟨fun hempty => ?_,
    fun src seq payload arrival rest hhead => ?_, fun src i tag payload arrival rest hhead => ?_, fun hempty => ?_,
    fun h rest m seq o hhead hslot => ?_, fun hempty => ?_, fun n rest hhead => ?_⟩⟩
  · exact hostCommand_answers (exec_readMessage s) hs rfl (judgeReadMessage_empty hempty)
  · exact hostCommand_answers (exec_readMessage s) hs rfl (judgeReadMessage_head hhead)
  · exact hostCommand_answers (exec_readMessage s) hs rfl (judgeReadMessage_head hhead)
  · exact hostCommand_answers (exec_readCompletion s) hs rfl (judgeReadCompletion_empty hempty)
  · have hanswer := hostCommand_answers (exec_readCompletion s) hs rfl (judgeReadCompletion_head hhead)
    rw [hslot] at hanswer
    cases o <;> exact hanswer
  · exact hostCommand_answers (exec_readNotice s) hs rfl (judgeReadNotice_empty hempty)
  · have hanswer := hostCommand_answers (exec_readNotice s) hs rfl (judgeReadNotice_head hhead)
    obtain ⟨kind, stamp⟩ := n
    cases kind with
    | peerLost p cause => cases cause <;> exact hanswer
    | healthChanged condition => cases condition <;> exact hanswer
    | _ => exact hanswer

end Sys2Proof.Machine
end

section
/-! PROOFS. The end of a complete transaction, and the code that names no command (R84, R97, R165, R166, R167, R179,
R184). -/

namespace Sys2Proof.Machine

/-! ### Grants do not look at the port -/

theorem grantLoop_onHpt (f : Hpt → Hpt) : ∀ (n : Nat) (s : State), grantLoop n (s.onHpt f) = (grantLoop n s).onHpt f
  | 0, _ => rfl
  | n + 1, s => by
    have hnext : (s.onHpt f).nextGrant = s.nextGrant := rfl
    simp only [grantLoop, hnext]
    cases s.nextGrant with
    | none => rfl
    | some p => exact grantLoop_onHpt f n (s.grantTo p)

theorem State.grantAttempt_onHpt (s : State) (f : Hpt → Hpt) : (s.onHpt f).grantAttempt = s.grantAttempt.onHpt f :=
  grantLoop_onHpt f Config.storeSize s

/-! ### The effect due at the end (R165) -/

/-- The end effect of a command that answered OK (R84, R97, R167, R179, R184). -/
def State.okEffect (c : HostCommand) (s : State) : State :=
  match c with
  | .readMessage => s.releaseMessage
  | .readCompletion => s.onTxs Txs.releaseHead
  | .readNotice => s.onHpt Hpt.removeNotice
  | .readCounters => s.onHpt Hpt.subtractSnapshot
  | .readStatus => s.onHpt fun t => { t with port := { t.port with aborted := false } }
  | _ => s

section
variable {s : State}

/-- The head record leaves the delivery queue, and the grants follow (R84). -/
theorem State.releaseMessage_cons {r : DeliveryRecord} {rest : List DeliveryRecord} (h : s.mst.delivery = r :: rest) :
    s.releaseMessage = (s.onMst Mst.release).grantAttempt :=
  if_neg (by rw [h]; nofun)

/-- An answer other than OK has no end effect (R165). -/
theorem State.endEffect_of_not_ok (h : s.hpt.port.answer.head? ≠ some Status.ok.byte) : s.endEffect = s := by
  simp [State.endEffect, Port.answeredOk, h]

theorem State.endEffect_of_ok {c : HostCommand} (hcommand : s.hpt.port.command = some c)
    (hok : s.hpt.port.answer.head? = some Status.ok.byte) : s.endEffect = s.okEffect c := by
  cases c <;> simp [State.endEffect, State.okEffect, Port.answeredOk, hcommand, hok]

end

/-! ### The port, clocked to the end of its answer and closed (R163, R165) -/

/-- The state with its port at another phase and count of bytes. -/
def State.portAt (phase : PortPhase) (count : Nat) (s : State) : State :=
  s.onHpt fun t => { t with port := { t.port with phase := phase, count := count } }

/-- The answer bytes still due move the port's phase and count, and nothing else. -/
theorem Port.clockRest_eq (p : Port) : ∃ phase count, p.clockRest = { p with phase := phase, count := count } := by
  unfold Port.clockRest Port.clock
  split
  · exact ⟨_, _, rfl⟩
  · exact ⟨p.phase, _, rfl⟩

/-- At the end of a transaction its effect is taken with the answer clocked out, and the port is closed. -/
theorem State.endTransaction_eq (s : State) :
    ∃ phase count, s.endTransaction = (s.portAt phase count).endEffect.portClosed := by
  obtain ⟨phase, count, h⟩ := s.hpt.port.clockRest_eq
  refine ⟨phase, count, ?_⟩
  simp only [State.endTransaction, State.portAt, State.onHpt, h]
  rfl

section
variable {s u : State} {c : HostCommand}

theorem State.Answering.leaves {answer : List Byte} (h : s.Answering c answer)
    (hu : ∀ phase count, (s.portAt phase count).endEffect.portClosed.withoutOutputs = u.withoutOutputs) :
    Leaves .transactionEnd s u := by
  obtain ⟨hreset, hjudged, -, -⟩ := h
  obtain ⟨phase, count, hend⟩ := s.endTransaction_eq
  exact event_leaves (exec_transactionEnd s) hreset hjudged (by rw [hend, hu])

/-- A command that answered OK has its end effect, however much of the answer has been clocked. -/
theorem State.Answering.endEffect {results : List Byte} (h : s.Answering c (Status.ok.byte :: results))
    (phase : PortPhase) (count : Nat) : (s.portAt phase count).endEffect = (s.portAt phase count).okEffect c := by
  obtain ⟨-, -, hcommand, hanswer⟩ := h
  exact State.endEffect_of_ok hcommand (congrArg List.head? hanswer)

/-- A transaction without an end effect only closes the port (R165). -/
theorem State.Answering.leaves_closed {answer : List Byte} (h : s.Answering c answer)
    (heffect : ∀ phase count, (s.portAt phase count).endEffect = s.portAt phase count) :
    Leaves .transactionEnd s s.portClosed :=
  h.leaves fun phase count => by rw [heffect]; rfl

theorem State.Answering.leaves_refused {status : Byte} {results : List Byte} (h : s.Answering c (status :: results))
    (hstatus : status ≠ Status.ok.byte) : Leaves .transactionEnd s s.portClosed := by
  refine h.leaves_closed fun phase count => State.endEffect_of_not_ok fun hok => hstatus ?_
  obtain ⟨-, -, -, hanswer⟩ := h
  have hhead : (s.portAt phase count).hpt.port.answer.head? = some status := congrArg List.head? hanswer
  exact Option.some.inj (hhead.symm.trans hok)

/-- READ_MESSAGE: the head record is released, and the grants do not see how far the answer has been clocked (R84). -/
theorem State.portClosed_releaseMessage {r : DeliveryRecord} {rest : List DeliveryRecord} (phase : PortPhase) (count : Nat)
    (h : s.mst.delivery = r :: rest) :
    (s.portAt phase count).releaseMessage.portClosed = (s.onMst Mst.release).grantAttempt.portClosed := by
  have hdelivery : (s.portAt phase count).mst.delivery = r :: rest := h
  have hrelease : (s.portAt phase count).onMst Mst.release = (s.onMst Mst.release).portAt phase count := rfl
  rw [State.releaseMessage_cons hdelivery, hrelease, State.portAt, State.grantAttempt_onHpt]
  rfl

end

/-- The head record leaves the store, and with it its count as a GROUP record (R84). -/
theorem Mst.release_cons {m : Mst} {r : DeliveryRecord} {rest : List DeliveryRecord} (h : m.delivery = r :: rest) :
    m.release =
      { m with
        delivery := rest
        stored := m.stored - 1
        storedGroup := if r.isGroup then m.storedGroup - 1 else m.storedGroup } := by
  simp only [Mst.release, h, DeliveryRecord.groupCount]
  cases r.isGroup <;> rfl

/-- The slot at the head of the completion queue becomes FREE, and the staging record forgets it (R97). -/
theorem Txs.releaseHead_cons {t : Txs} {h : Handle} {rest : List Handle} (hc : t.completions = h :: rest) :
    t.releaseHead =
      { t with slots := t.slots.set h .free, completions := rest, staged := t.staged.map (StagingRecord.forget h) } := by
  simp only [Txs.releaseHead, hc, Txs.setSlot]

/-- Each counter is reduced by the snapshot of the transaction (R184). -/
theorem Hpt.subtractSnapshot_some {t : Hpt} {snap : Counters} (h : t.port.snapshot = some snap) :
    t.subtractSnapshot = { t with counters := t.counters.reduceBy snap } := by
  simp only [Hpt.subtractSnapshot, h]

/-- Settles O8: the end effect of each reading command that answered OK, and none for any other answer. -/
theorem completeEndTakesItsEffect : Obligations.CompleteEndTakesItsEffect := by
  refine ⟨fun s results r rest hs hhead => ?_, fun s results h rest hs hhead => ?_, fun s results n rest hs hhead => ?_,
    fun s results snap hs hsnap => ?_, fun s results hs => ?_, fun s c status results hs hnone => ?_⟩
  · refine hs.leaves fun phase count => ?_
    have hreleased := Mst.release_cons hhead
    rw [hs.endEffect, State.okEffect, State.portClosed_releaseMessage phase count hhead, State.onMst, hreleased]
  · refine hs.leaves fun phase count => ?_
    have hreleased : (s.portAt phase count).txs.releaseHead
        = { s.txs with
            slots := s.txs.slots.set h .free, completions := rest, staged := s.txs.staged.map (StagingRecord.forget h) } :=
      Txs.releaseHead_cons hhead
    rw [hs.endEffect, State.okEffect, State.onTxs, hreleased]
    rcases s.txs.staged with _ | record
    · rfl
    · cases record <;> rfl
  · refine hs.leaves fun phase count => ?_
    have htail : s.hpt.notices.tail = rest := congrArg List.tail hhead
    rw [hs.endEffect, ← htail]
    rfl
  · refine ⟨s.hpt.counters.reduceBy snap, rfl, hs.leaves fun phase count => ?_⟩
    have hreduced : (s.portAt phase count).hpt.subtractSnapshot
        = { (s.portAt phase count).hpt with counters := s.hpt.counters.reduceBy snap } := Hpt.subtractSnapshot_some hsnap
    rw [hs.endEffect, State.okEffect, State.onHpt, hreduced]
    rfl
  · exact hs.leaves fun phase count => by rw [hs.endEffect]; rfl
  · by_cases hstatus : status = Status.ok.byte
    · subst hstatus
      have hc := hnone.resolve_left (· rfl)
      simp only [List.mem_cons, List.not_mem_nil, or_false] at hc
      refine hs.leaves_closed fun phase count => ?_
      rw [hs.endEffect]
      rcases hc with rfl | rfl | rfl | rfl | rfl | rfl | rfl | rfl <;> rfl
    · exact hs.leaves_refused hstatus

/-! ### A code that names no command (R160, R166) -/

/-- The twelve codes are those of R160. -/
theorem isCommandCode_iff (code : Byte) :
    isCommandCode code = true
      ↔ code ∈ [0x10, 0x11, 0x12, 0x13, 0x20, 0x21, 0x30, 0x31, 0x32, 0x33, 0x34, 0x35] := by
  simp [isCommandCode, knownCommands, commandCode, @eq_comm _ _ code]

theorem unknownCommand_reaches {s : State} {code : Byte} (hs : s.TakesCommand)
    (hcode : code ∉ [0x10, 0x11, 0x12, 0x13, 0x20, 0x21, 0x30, 0x31, 0x32, 0x33, 0x34, 0x35]) :
    (s.takesCode && !isCommandCode code) = true := by
  rw [← isCommandCode_iff, Bool.not_eq_true] at hcode
  rw [hs.takesCode, hcode]
  rfl

theorem unknownCommand_next {s : State} {code : Byte} (hs : s.TakesCommand)
    (hcode : code ∉ [0x10, 0x11, 0x12, 0x13, 0x20, 0x21, 0x30, 0x31, 0x32, 0x33, 0x34, 0x35]) :
    exec (.unknownCommand code) s = .next (s.answered .unknown [] .unknownCommand []).finish := by
  have hjudged : s.runCommand .unknown [] judgeUnknown = s.answered .unknown [] .unknownCommand [] :=
    s.runCommand_complete .unknown [] judgeUnknown rfl
  rw [exec_unknownCommand, event, hs.1, unknownCommand_reaches hs hcode, hjudged]
  rfl

theorem Leaves.congr {c : Instr} {s u v : State} (h : Leaves c s u) (huv : u.withoutOutputs = v.withoutOutputs) :
    Leaves c s v := by
  obtain ⟨t, ht, hu⟩ := h
  exact ⟨t, ht, hu.trans huv⟩

/-- Settles O9: the judgement leaves the part as it is, and so do both ends of its transaction. -/
theorem unknownCodeIsAnsweredAndChangesNothing : Obligations.UnknownCodeIsAnsweredAndChangesNothing := by
  intro s code hs hcode
  refine ⟨_, unknownCommand_next hs hcode, State.finish_withoutOutputs _, ?_⟩
  obtain ⟨presented, low, hfinish⟩ := (s.answered .unknown [] .unknownCommand []).finish_eq
  rw [hfinish]
  refine ⟨rfl, Leaves.congr ?_ rfl, event_leaves (exec_transactionCutShort _) hs.1 rfl rfl⟩
  exact State.Answering.leaves_refused (c := .unknown) (status := Status.unknownCommand.byte) (results := [])
    ⟨hs.1, rfl, rfl, rfl⟩ (by decide)

end Sys2Proof.Machine
end

section
/-! PROOFS. A transaction byte by byte, and edge by edge of SCLK (R157, R158, R160, R163, R168). -/

namespace Sys2Proof.Machine

/-! ### What a byte does in each phase (R158) -/

section
variable {s : State} {byte : Byte}

theorem State.clockByte_command (h : s.hpt.port.phase = .command) :
    s.clockByte byte = s.takeParams (commandOf byte) [] := by
  simp only [State.clockByte, h]

theorem State.clockByte_parameters {c : HostCommand} (h : s.hpt.port.phase = .parameters)
    (hc : s.hpt.port.command = some c) : s.clockByte byte = s.takeParams c (s.hpt.port.params ++ [byte]) := by
  simp only [State.clockByte, h, hc]

theorem State.clockByte_answer (h : s.hpt.port.phase = .answer) :
    s.clockByte byte = s.onHpt fun t => { t with port := t.port.clock 1 } := by
  simp only [State.clockByte, h]

theorem State.clockByte_overrun (h : s.hpt.port.phase = .overrun) :
    s.clockByte byte = s.onHpt fun t => { t with port := t.port.clock 1 } := by
  simp only [State.clockByte, h]

end

section
variable {s : State} {c : HostCommand} {params : List Byte}

theorem State.takeParams_short (h : params.length < paramsNeeded c params) :
    s.takeParams c params = s.onHpt fun t => { t with port := t.port.awaitParams c params } := if_pos h

theorem State.takeParams_complete (h : params.length = paramsNeeded c params) :
    s.takeParams c params = s.takeJudgement c params (judgementOf c) := if_neg h.not_lt

/-- The row of a command with its parameters complete is its judgement (R162). -/
theorem State.runCommand_judged (h : params.length = paramsNeeded c params) :
    s.runCommand c params (judgementOf c) = s.takeJudgement c params (judgementOf c) :=
  s.runCommand_complete c params _ h

end

section
variable {p : Port}

/-- A byte of the answer other than the last leaves ANSWER. -/
theorem Port.clock_within (h : p.count + 1 < p.answer.length) : p.clock 1 = { p with count := p.count + 1 } :=
  if_neg fun ⟨_, hle⟩ => hle.not_gt h

/-- The last byte of the answer enters OVERRUN. -/
theorem Port.clock_last (hp : p.phase = .answer) (h : p.count + 1 = p.answer.length) :
    p.clock 1 = { p with phase := .overrun, count := 0 } := by
  rw [Port.clock, if_pos ⟨hp, h.ge⟩, h, Nat.sub_self]

theorem Port.clock_overrun (hp : p.phase = .overrun) : p.clock 1 = { p with count := p.count + 1 } :=
  if_neg fun ⟨ha, _⟩ => nomatch hp.symm.trans ha

end

/-! ### The judgement does not look at the phase of the port (R162) -/

section
variable (s : State) (phase : PortPhase) (count : Nat) {c : HostCommand}
  (h : c ∈ [HostCommand.configure, .submit, .cancel, .readPeer]) (params : List Byte)
include h

/-- A command with parameters is judged on them and on the part, whatever the phase and the count of its port. -/
theorem judgementOf_portAt :
    judgementOf c params (s.portAt phase count)
      = ((judgementOf c params s).1.portAt phase count, (judgementOf c params s).2) := by
  have hcontrol : (s.portAt phase count).control = s.control := rfl
  have htxs : (s.portAt phase count).txs = s.txs := rfl
  have hcheck : (s.portAt phase count).submitCheck (readSubmit params) = s.submitCheck (readSubmit params) := rfl
  simp only [List.mem_cons, List.not_mem_nil, or_false] at h
  rcases h with rfl | rfl | rfl | rfl
  · simp only [judgementOf, judgeConfigure, hcontrol]
    split
    · split <;> rfl
    · rfl
  · simp only [judgementOf, judgeSubmit, hcheck]
    split <;> rfl
  · simp only [judgementOf, judgeCancel, htxs]
    split
    · rfl
    · split <;> rfl
  · simp only [judgementOf, judgeReadPeer]
    split <;> rfl

/-- The judgement enters ANSWER from whatever phase. -/
theorem State.takeJudgement_portAt :
    (s.portAt phase count).takeJudgement c params (judgementOf c) = s.takeJudgement c params (judgementOf c) := by
  simp only [State.takeJudgement, judgementOf_portAt s phase count h]
  rfl

end

/-! ### The commands that code bytes name (R160) -/

/-- A code that starts no parameters is the row of its command. -/
theorem commandOf_row {byte : Byte} {i : Instr}
    (h : (byte, i) ∈ [((0x11 : Byte), Instr.start), (0x12, .leave), (0x13, .reset), (0x30, .readMessage),
      (0x31, .readCompletion), (0x32, .readNotice), (0x34, .readStatus), (0x35, .readCounters)]) (s : State) :
    paramsNeeded (commandOf byte) [] = 0
      ∧ exec i s = hostCommand (commandOf byte) [] (judgementOf (commandOf byte)) s := by
  simp only [List.mem_cons, List.not_mem_nil, or_false, Prod.mk.injEq] at h
  rcases h with ⟨rfl, rfl⟩ | ⟨rfl, rfl⟩ | ⟨rfl, rfl⟩ | ⟨rfl, rfl⟩ | ⟨rfl, rfl⟩ | ⟨rfl, rfl⟩ | ⟨rfl, rfl⟩ |
    ⟨rfl, rfl⟩ <;> exact ⟨rfl, rfl⟩

/-- A code with parameters to come is that of a command that takes some. -/
theorem commandOf_waiting {byte : Byte} {c : HostCommand}
    (h : (byte, c) ∈ [((0x10 : Byte), HostCommand.configure), (0x20, .submit), (0x21, .cancel), (0x33, .readPeer)]) :
    commandOf byte = c ∧ 0 < paramsNeeded c [] := by
  simp only [List.mem_cons, List.not_mem_nil, or_false, Prod.mk.injEq] at h
  rcases h with ⟨rfl, rfl⟩ | ⟨rfl, rfl⟩ | ⟨rfl, rfl⟩ | ⟨rfl, rfl⟩ <;> exact ⟨rfl, by decide⟩

theorem commandOf_unknown {code : Byte} (h : isCommandCode code = false) : commandOf code = .unknown := by
  rw [isCommandCode, List.any_eq_false] at h
  rw [commandOf, List.find?_eq_none.2 h]
  rfl

/-! ### Whole bytes (R157, R158) -/

theorem Port.takesByte_of_betweenBytes {p : Port} (hb : p.BetweenBytes) (hselected : p.phase.selected = true) :
    p.takesByte = true := by
  simp [Port.takesByte, Port.atByte, hselected, hb.1, hb.2]

section
variable {s : State} {byte : Byte} (hreset : s.inReset = false) (hb : s.hpt.port.BetweenBytes)
include hreset hb

/-- A byte taken between two bytes leaves what it does in its phase. -/
theorem mosiByte_takes {u : State} (hselected : s.hpt.port.phase.selected = true)
    (hu : (s.clockByte byte).withoutOutputs = u.withoutOutputs) : Takes (.mosiByte byte) s u :=
  takes_event (takeInput_mosiByte byte s) hreset (Port.takesByte_of_betweenBytes hb hselected) hu

/-- A code byte that starts no parameters does what the row of its command does. -/
theorem codeByte_takesAs {i : Instr} {reaches : State → Bool} (hphase : s.hpt.port.phase = .command)
    (hneed : paramsNeeded (commandOf byte) [] = 0)
    (hi : exec i s = event reaches (State.runCommand (commandOf byte) [] (judgementOf (commandOf byte))) s)
    (hreaches : reaches s = true) : TakesAs (.mosiByte byte) s i := by
  have hselected : s.hpt.port.phase.selected = true := by rw [hphase]; rfl
  refine takesAs_event (takeInput_mosiByte byte s) hi hreset (Port.takesByte_of_betweenBytes hb hselected) hreaches ?_
  rw [State.clockByte_command hphase, State.takeParams_none s hneed]

/-- In PARAMETERS a byte is stored while the command takes more, and the last one is the command's row, as if the code and
the parameters had come in one piece (R158, R160). -/
theorem parameterByte_takes {c : HostCommand} {params : List Byte} {need : Nat} {row : Instr}
    (hphase : s.hpt.port.phase = .parameters) (hcommand : s.hpt.port.command = some c)
    (hc : c ∈ [HostCommand.configure, .submit, .cancel, .readPeer]) (hparams : s.hpt.port.params ++ [byte] = params)
    (hneed : paramsNeeded c params = need)
    (hrow : params.length = need → ∀ v, exec row v = hostCommand c params (judgementOf c) v) :
    (params.length < need →
      Takes (.mosiByte byte) s (s.onHpt fun t => { t with port := t.port.awaitParams c params }))
    ∧ (params.length = need →
      ∃ t, takeInput (.mosiByte byte) s = .next t ∧ exec row (s.portAt .command s.hpt.port.count) = .next t) := by
  subst hparams hneed
  have hselected : s.hpt.port.phase.selected = true := by rw [hphase]; rfl
  have hbyte := State.clockByte_parameters (byte := byte) hphase hcommand
  refine ⟨fun hshort => ?_, fun hcomplete => ?_⟩
  · exact mosiByte_takes hreset hb hselected (by rw [hbyte, State.takeParams_short hshort])
  · have htakes := Port.takesByte_of_betweenBytes hb hselected
    have hcode : (s.portAt .command s.hpt.port.count).TakesCommand := ⟨hreset, rfl, hb⟩
    refine ⟨(s.takeJudgement c (s.hpt.port.params ++ [byte]) (judgementOf c)).finish, ?_, ?_⟩
    · rw [takeInput_mosiByte, event, hreset, htakes, hbyte, State.takeParams_complete hcomplete]
      rfl
    · rw [hrow hcomplete, hostCommand, event, hcode.1, hcode.takesCode, State.runCommand_judged hcomplete,
        State.takeJudgement_portAt s _ _ hc]
      rfl

end

/-- A list of one byte is the byte it starts with. -/
theorem singleton_byteAt {params : List Byte} (h : params.length = 1) : [byteAt params 0] = params := by
  obtain ⟨b, rfl⟩ := List.length_eq_one_iff.1 h
  rfl

/-! ### MISO and the bits of a byte (R157) -/

theorem State.miso_selected {s : State} (hreset : s.inReset = false) (hselected : s.hpt.port.phase.selected = true) :
    s.miso = some s.hpt.port.outBit := by
  cases hphase : s.hpt.port.phase <;> simp_all [State.miso, PortPhase.selected]

theorem State.miso_waiting {s : State} (hphase : s.hpt.port.phase = .waiting) : s.miso = none := by
  simp [State.miso, hphase]

theorem Port.outBit_low {p : Port} (h : p.held = none) : p.outBit = p.outByte.getLsbD (7 - p.bits.length) := by
  simp only [Port.outBit, h]

theorem Port.outBit_high {p : Port} {level : Bool} (h : p.held = some level) : p.outBit = level := by
  simp only [Port.outBit, h]

/-- The bits of a byte in line order, most significant first. -/
def lineBits (b : Byte) : List Bool := [7, 6, 5, 4, 3, 2, 1, 0].map b.getLsbD

theorem byteOfLine_lineBits : ∀ b : Byte, byteOfLine (lineBits b) = b := by decide +kernel

theorem getElem?_lineBits (b : Byte) {i : Nat} (hi : i < 8) : (lineBits b)[i]? = some (b.getLsbD (7 - i)) := by
  interval_cases i <;> rfl

theorem byteOfLine_eq {bits : List Bool} {b : Byte} (hlength : bits.length = 8)
    (hbits : ∀ i < 8, bits[i]? = some (b.getLsbD (7 - i))) : byteOfLine bits = b := by
  have hline : bits = lineBits b := by
    refine List.ext_getElem? fun i => ?_
    by_cases hi : i < 8
    · rw [hbits i hi, getElem?_lineBits b hi]
    · rw [List.getElem?_eq_none (by omega), List.getElem?_eq_none (Nat.not_lt.1 hi)]
  rw [hline, byteOfLine_lineBits]

/-! ### The edges of SCLK (R157) -/

theorem Port.takesRise_of_low {p : Port} (hselected : p.phase.selected = true) (hlow : p.held = none) :
    p.takesRise = true := by
  simp [Port.takesRise, hselected, hlow]

section
variable {s : State} {mosi : Bool} (hreset : s.inReset = false) (hselected : s.hpt.port.phase.selected = true)

section
variable (hlow : s.hpt.port.held = none)
include hlow

theorem sclkFall_ignored : takeInput .sclkFall s = .next s := by
  rw [takeInput_sclkFall]
  exact event_ignored (by simp [Port.takesFall, hlow])

include hreset hselected

/-- A rising edge samples MOSI, and MISO keeps its level while SCLK is high. -/
theorem sclkRise_takes_bit (hbits : s.hpt.port.bits.length < 7) :
    Takes (.sclkRise mosi) s ((s.withBits (s.hpt.port.bits ++ [mosi])).withHeld s.miso) := by
  refine takes_event (takeInput_sclkRise mosi s) hreset (Port.takesRise_of_low hselected hlow) ?_
  rw [State.clockRise_within s mosi hbits, State.miso_selected hreset hselected]

/-- The eighth rising edge takes the byte that the bits spell, and MISO keeps its level. -/
theorem sclkRise_takes_byte (hbits : s.hpt.port.bits.length = 7) {byte : Byte} {t : State}
    (hspelled : ∀ i < 8, (s.hpt.port.bits ++ [mosi])[i]? = some (byte.getLsbD (7 - i)))
    (ht : takeInput (.mosiByte byte) (s.withBits []) = .next t) : Takes (.sclkRise mosi) s (t.withHeld s.miso) := by
  have hbyte : byteOfLine (s.hpt.port.bits ++ [mosi]) = byte := byteOfLine_eq (by simp [hbits]) hspelled
  have htakes : (s.withBits []).hpt.port.takesByte = true := Port.takesByte_of_betweenBytes ⟨rfl, hlow⟩ hselected
  have ht : t = ((s.withBits []).clockByte byte).finish := by
    rcases event_cases ((takeInput_mosiByte byte _).symm.trans ht) with ⟨-, -, h⟩ | ⟨hheld | hclosed, -⟩
    · exact h
    · exact absurd (hreset.symm.trans hheld) (by decide)
    · exact absurd (htakes.symm.trans hclosed) (by decide)
  refine takes_event (takeInput_sclkRise mosi s) hreset (Port.takesRise_of_low hselected hlow) ?_
  have hfinish : t.withoutOutputs = ((s.withBits []).clockByte byte).withoutOutputs := by
    rw [ht, State.finish_withoutOutputs]
  rw [State.clockRise_eighth s mosi hbits, hbyte, State.miso_selected hreset hselected]
  exact congrArg (State.withHeld (some s.hpt.port.outBit)) hfinish.symm

end

section
variable {level : Bool} (hhigh : s.hpt.port.held = some level)
include hhigh

theorem sclkRise_ignored : takeInput (.sclkRise mosi) s = .next s := by
  rw [takeInput_sclkRise]
  exact event_ignored (by simp [Port.takesRise, hhigh])

include hreset hselected

theorem sclkFall_takes : Takes .sclkFall s (s.withHeld none) :=
  takes_event (takeInput_sclkFall s) hreset (by simp [Port.takesFall, hselected, hhigh]) rfl

end

/-- With CSn high no edge and no byte reaches the port (R168). -/
theorem portInput_ignored {i : Input} (hclosed : s.hpt.port.phase.selected = false)
    (hi : ∀ recessive order, i ≠ .bitTime recessive order) : takeInput i s = .next s := by
  cases i with
  | bitTime recessive order => exact absurd rfl (hi recessive order)
  | sclkRise mosi => exact (takeInput_sclkRise mosi s).trans (event_ignored (by simp [Port.takesRise, hclosed]))
  | sclkFall => exact (takeInput_sclkFall s).trans (event_ignored (by simp [Port.takesFall, hclosed]))
  | mosiByte byte => exact (takeInput_mosiByte byte s).trans (event_ignored (by simp [Port.takesByte, hclosed]))

end

/-- Settles O7: each phase of the port for whole bytes, and for edges the byte that the port gives in it. -/
theorem bytesDriveTheTransaction : Obligations.BytesDriveTheTransaction := by
  constructor
  · intro s byte hreset hbits hheld port with' waits
    have hb : s.hpt.port.BetweenBytes := ⟨hbits, hheld⟩
    refine ⟨fun hphase => ?_, fun hphase => ?_, fun hphase => ?_, fun hphase => ?_⟩
    · have hs : s.TakesCommand := ⟨hreset, hphase, hb⟩
      have hselected : s.hpt.port.phase.selected = true := congrArg PortPhase.selected hphase
      refine ⟨fun c hc => ?_, fun i hi => ?_, fun hcode => ?_⟩
      · obtain ⟨hcommand, hneed⟩ := commandOf_waiting hc
        refine mosiByte_takes hreset hb hselected ?_
        rw [State.clockByte_command hphase, hcommand, State.takeParams_short (params := []) hneed]
        rfl
      · obtain ⟨hneed, hrow⟩ := commandOf_row hi s
        exact codeByte_takesAs hreset hb hphase hneed hrow hs.takesCode
      · have hunknown := commandOf_unknown (by rwa [← isCommandCode_iff, Bool.not_eq_true] at hcode)
        exact codeByte_takesAs hreset hb hphase (by rw [hunknown]; rfl) (by rw [hunknown]; rfl)
          (unknownCommand_reaches hs hcode)
    · intro params length takes
      refine ⟨fun hc => ?_, fun hc => ?_, fun hc => ?_, fun hc => ?_⟩
      · exact parameterByte_takes hreset hb hphase hc (by decide) rfl rfl fun _ => exec_configure params
      · exact parameterByte_takes hreset hb hphase hc (by decide) rfl (paramsNeeded_submit_eq params) fun _ =>
          exec_submit params
      · refine parameterByte_takes hreset hb hphase hc (by decide) rfl rfl fun hone v => ?_
        rw [exec_cancel, singleton_byteAt hone]
        rfl
      · refine parameterByte_takes hreset hb hphase hc (by decide) rfl rfl fun hone v => ?_
        rw [exec_readPeer, singleton_byteAt hone]
        rfl
    · have hselected : s.hpt.port.phase.selected = true := congrArg PortPhase.selected hphase
      refine ⟨fun hwithin => ?_, fun hlast => ?_⟩ <;> refine mosiByte_takes hreset hb hselected ?_
      · rw [State.clockByte_answer hphase, State.onHpt, Port.clock_within hwithin]
      · rw [State.clockByte_answer hphase, State.onHpt, Port.clock_last hphase hlast]
    · refine mosiByte_takes hreset hb (congrArg PortPhase.selected hphase) ?_
      rw [State.clockByte_overrun hphase, State.onHpt, Port.clock_overrun hphase]
  · intro s mosi hreset port with' carries
    have hcarries : ∀ {phase given}, port.phase = phase → phase.selected = true → port.outByte = given →
        carries given := by
      rintro _ _ rfl hselected rfl
      have hmiso := State.miso_selected hreset hselected
      refine ⟨fun hlow => ⟨?_, fun hbits => ?_, fun hbits byte t hspelled ht => ?_, ?_⟩,
        fun level hhigh => ⟨?_, ?_, ?_⟩⟩
      · rw [hmiso, Port.outBit_low hlow]
      · exact sclkRise_takes_bit hreset hselected hlow hbits
      · exact sclkRise_takes_byte hreset hselected hlow hbits hspelled ht
      · exact sclkFall_ignored hlow
      · rw [hmiso, Port.outBit_high hhigh]
      · exact sclkRise_ignored hhigh
      · exact sclkFall_takes hreset hselected hhigh
    refine ⟨fun hphase => ?_, fun hphase => ?_, fun b hphase hb => ?_, fun hphase => ?_, State.miso_waiting,
      fun hclosed i => ?_⟩
    · exact hcarries hphase rfl (by simp only [Port.outByte, hphase])
    · exact hcarries hphase rfl (by simp only [Port.outByte, hphase])
    · exact hcarries hphase rfl (by simp [Port.outByte, hphase, hb])
    · exact hcarries hphase rfl (by simp only [Port.outByte, hphase])
    · exact portInput_ignored (by rcases hclosed with h | h <;> exact congrArg PortPhase.selected h)

end Sys2Proof.Machine
end

section
/-! PROOFS. What a step takes: a waiting command first, then what the pins bring (log entry 4). -/

namespace Sys2Proof.Machine

/-- A waiting command is taken before anything that the pins bring. -/
theorem step_of_pending {s : State} {c : Instr} {rest : List Instr} (h : s.pending = c :: rest) :
    step s = exec c { s with pending := rest } := by
  rw [step, h]

theorem step_of_inputs {s : State} {i : Input} {rest : List Input} (hp : s.pending = []) (hi : s.inputs = i :: rest) :
    step s = takeInput i { s with inputs := rest } := by
  rw [step, hp, hi]

theorem step_of_idle {s : State} (hp : s.pending = []) (hi : s.inputs = []) : step s = .next s := by
  rw [step, hp, hi]

/-- Settles O1: the three cases of what waits, each on a state whose queues are spelled. -/
theorem stepRunsFrontCommand : Obligations.StepRunsFrontCommand := by
  refine ⟨fun c rest s => ?command, fun i rest s hp => ?input, fun s hp hi => step_of_idle hp hi⟩
  case command => exact step_of_pending (s := { s with pending := c :: rest }) rfl
  case input => exact step_of_inputs (s := { s with inputs := i :: rest }) hp rfl

end Sys2Proof.Machine
end
